-- ==== Sys2Proof/Word.lean ====
section
/-! DEFINITION. The word type of this hardware: a byte is 8 unsigned bits (00_scope.md section 5.1, R47). -/

namespace Sys2Proof

/-- A byte, bit 0 least significant (00_scope.md section 5.1). -/
abbrev Byte := BitVec 8

end Sys2Proof
end

