-- ==== Sys2Proof/Config.lean ====
section
/-! DEFINITION. What is fixed for one machine: the constants of R1 to R4, the OPEN and switchable parameters
(00_scope.md section 4, 92_eei_decisions.md), and the free values: what the line delivers (R44). -/

namespace Sys2Proof

/-- Byte order of the 16-bit tone fields, OPEN (R49, D20). -/
inductive Endian where
  | big
  | little
  deriving DecidableEq, Repr, Inhabited

/-- The parameters a model takes as arguments (00_scope.md section 4). They stand in State, and no step writes them. -/
structure Config where
  /-- LEN_CHECK: does DECODE compare the length byte with the payload count (R105, D8). -/
  lenCheck : Bool
  /-- TONE_ENDIAN (R49, R163, D20). -/
  toneEndian : Endian
  idAnswerToReset : Byte
  idGetStatus : Byte
  idSetLed : Byte
  idAck : Byte
  idBeep : Byte
  idRfidSend : Byte
  idRfidSendComplete : Byte
  deriving DecidableEq, Repr, Inhabited

/-- The seven named ids whose values are OPEN (R75, D6). -/
def Config.ids (c : Config) : List Byte :=
  [c.idAnswerToReset, c.idGetStatus, c.idSetLed, c.idAck, c.idBeep, c.idRfidSend, c.idRfidSendComplete]

/-- The one law of the named ids (R75): each in 0x00 to 0x0D, pairwise different. -/
abbrev Config.Wf (c : Config) : Prop :=
  (∀ b ∈ c.ids, b ≤ 0x0D#8) ∧ c.ids.Nodup

/-- OUTER_MAX (R1). -/
abbrev Config.outerMax : BitVec 2 := 2
/-- INNER_MAX (R1). -/
abbrev Config.innerMax : BitVec 2 := 2
/-- RESPONSE_ATR, the total length of a fixed-size reply (R2, C1). -/
abbrev Config.responseAtr : BitVec 9 := 5
/-- TRANSMIT_OVERHEAD, the bytes a frame adds to its payload (R2). -/
abbrev Config.transmitOverhead : Nat := 3
/-- MAX_TONES (R3). -/
abbrev Config.maxTones : Nat := 8
/-- MAX_RFID (R3). -/
abbrev Config.maxRfid : Nat := 128
/-- The largest value of LED_BITS = 3 significant bits (R3). -/
abbrev Config.maxMask : Byte := 0b111
/-- RESET_NOTIFY_LEN (R161). -/
abbrev Config.resetNotifyLen : Nat := 5
/-- ID_RX_ERROR (R76). DESIGN CHOICE of the spec (D7), unsafe; notes/assumptions/3.md. -/
abbrev Config.idRxError : Byte := 0xFF
/-- The largest id of the enumeration below RX_ERROR (R75). -/
abbrev Config.maxEnumId : Byte := 0x0D

/-- The link configuration of R4; it belongs to the transport, and no rule reads it. -/
structure Link where
  baud : Nat
  dataBits : Nat
  evenParity : Bool
  stopBits : Nat
  readTimeoutMs : Nat
  deriving DecidableEq, Repr

/-- R4's numbers. -/
def Config.link : Link := ⟨19200, 8, true, 1, 500⟩

/-- The vector assignment of R75, for examples only: no source gives it. -/
def Config.vector : Config := ⟨false, .big, 0, 1, 2, 3, 4, 5, 6⟩

/-- FREE VALUE: the OPEN parameters of the machine that State.reset stands for (D6, D20); notes/assumptions/1.md. -/
opaque Config.boardDraw : Config

/-- The parameters after reset: free ids that keep R75's law, a free TONE_ENDIAN, LEN_CHECK = false (D8). Nothing
but that can be proved of it. -/
def Config.board : Config :=
  if Config.boardDraw.Wf then { Config.boardDraw with lenCheck := false }
  else { Config.vector with toneEndian := Config.boardDraw.toneEndian }

/-- What the device and the line do between two receive calls of the block (R44): the first `lost` bytes of the
receive queue are lost, then `bytes` come in before the call returns. -/
structure Arrival where
  lost : Nat
  bytes : List Byte
  deriving DecidableEq, Repr, Inhabited

/-- FREE VALUE: what the line does before the n-th receive call that State gives no arrival for (R44);
notes/assumptions/7.md. -/
opaque Config.freeArrival : Nat → Arrival

end Sys2Proof
end

