-- ==== Sys2Proof/Syntax.lean ====
section
/-! DEFINITION. The instructions: one constructor per row of spec/opcode_table.json. The hardware is no processor
(00_scope.md section 1): a row is an operation of the command port, a step of the transceiver, a procedure of the host
layer, or a frame on the wire. -/

namespace Sys2Proof

/-- One (frequency, duration) pair of BEEP, 16 bits each (R163). -/
structure Tone where
  freq : BitVec 16
  dur : BitVec 16
  deriving DecidableEq, Repr

/-- The rest of a frame whose id the row gives (R70): the payload, whose count is the length byte (R72), and the
checksum byte as it stands on the wire, right or wrong (R74, R109). -/
structure FrameBody where
  payload : List Byte
  checksum : Byte
  deriving DecidableEq, Repr

/-- Where an instruction is read from: the four code spaces of the table. -/
inductive Source where
  /-- The command port: OP in bits 1:0 (R81, R82). -/
  | port
  /-- The transceiver's state register ST (R14, R130). -/
  | fsm
  /-- A call of a host-layer procedure; the spec gives these no code (R87), the numbers are the model's. -/
  | call
  /-- A frame seen by its format alone, its id an opaque byte (R70, R71). -/
  | format
  /-- A frame seen through the id space (R75 to R78). -/
  | wire
  deriving DecidableEq, Repr

inductive Instr where
  -- operations of the command port (R81); LEN is the length of `pay`, CNT the length of `raw`
  | encode (id : Byte) (pay : List Byte)
  | decode (raw : List Byte)
  | transceive (id : Byte) (pay : List Byte) (exp : BitVec 9)
  | reservedOp3
  -- steps of the transceiver (R130)
  | start (id : Byte) (pay : List Byte) (exp : BitVec 9)
  | send
  | recv
  | errsend
  | errrecv
  | escalate
  -- procedures of the host layer (43_host_layer.md)
  | checkReset
  | setLeds (mask : Byte)
  | beep (tones : List Tone) (again : Bool)
  | rfidSend (pay : List Byte)
  -- frames on the wire (30_encoding.md)
  | frame (id : Byte) (body : FrameBody)
  | rxError (body : FrameBody)
  | answerToReset (body : FrameBody)
  | getStatus (body : FrameBody)
  | setLed (body : FrameBody)
  | ack (body : FrameBody)
  | beepFrame (body : FrameBody)
  | rfidSendFrame (body : FrameBody)
  | rfidSendComplete (body : FrameBody)
  | firmwareIds (id : Byte) (body : FrameBody)
  | unassignedId (id : Byte) (body : FrameBody)
  deriving DecidableEq, Repr

end Sys2Proof
end

