-- ==== Sys2Proof/WellFormed.lean ====
section
/-! DEFINITION. Which instructions can be presented: the port and field widths of R82, R72 and the id classes of R75 to
R78. -/

namespace Sys2Proof

/-- A payload fits the port and the length byte (R72, R82, D10). -/
def payFits (pay : List Byte) : Bool := pay.length ≤ 255

/-- DECODE's input fits the 9-bit CNT (R82, D11). -/
def rawFits (raw : List Byte) : Bool := raw.length ≤ 511

/-- A host-layer list fits the 16-bit count of the model's call encoding; the spec sets no bound (R163, R164 refuse
longer lists by ValidationError, far below this). DESIGN CHOICE; notes/assumptions/12.md. -/
def callCountFits (n : Nat) : Bool := n < 65536

/-- A firmware-upgrade id: one of the values of 0x00 to 0x0D that the seven named ids leave (R77). -/
def Config.isFirmwareId (c : Config) (id : Byte) : Bool := id ≤ Config.maxEnumId && !(c.ids.contains id)

/-- An id in no member of the enumeration, 0x0E to 0xFE (R78). -/
def isUnassignedId (id : Byte) : Bool := Config.maxEnumId < id && id != Config.idRxError

/-- The instruction can be presented on the machine with parameters `c`. -/
def Instr.wellFormed (c : Config) : Instr → Bool
  | .encode _ pay => payFits pay
  | .decode raw => rawFits raw
  | .transceive _ pay _ => payFits pay
  | .reservedOp3 => true
  | .start _ pay _ => payFits pay
  | .send => true
  | .recv => true
  | .errsend => true
  | .errrecv => true
  | .escalate => true
  | .checkReset => true
  | .setLeds _ => true
  | .beep tones _ => callCountFits tones.length
  | .rfidSend pay => callCountFits pay.length
  | .frame _ body => payFits body.payload
  | .rxError body => payFits body.payload
  | .answerToReset body => payFits body.payload
  | .getStatus body => payFits body.payload
  | .setLed body => payFits body.payload
  | .ack body => payFits body.payload
  | .beepFrame body => payFits body.payload
  | .rfidSendFrame body => payFits body.payload
  | .rfidSendComplete body => payFits body.payload
  | .firmwareIds id body => c.isFirmwareId id && payFits body.payload
  | .unassignedId id body => isUnassignedId id && payFits body.payload

end Sys2Proof
end

