-- ==== Sys2Proof/Decode.lean ====
section
/-! DEFINITION. Reading instructions: the OP field (R81), the ST code (R14, R130) and the id byte (R75 to R78) are the
spec's; the layout of the operands behind them is the model's (R82 gives widths only; notes/assumptions/12.md). Decoding
is total and rejects by name. The encoder stands after it. -/

namespace Sys2Proof

/-- Why bytes are no instruction. -/
inductive DecodeError where
  /-- No byte at all. -/
  | empty
  /-- An operand is cut short. -/
  | truncated
  /-- A bit outside a field is set: OP has 2 bits, ST 3, EXP and CNT 9. -/
  | unusedBits
  /-- A call number of no host-layer procedure. -/
  | noSuchCall
  /-- Bytes are left over behind the instruction. -/
  | trailingBytes
  deriving DecidableEq, Repr

/-- The next `n` bytes and what follows them. -/
def takeBytes (n : Nat) (bs : List Byte) : Except DecodeError (List Byte × List Byte) :=
  if n ≤ bs.length then .ok (bs.take n, bs.drop n) else .error .truncated

/-- LEN and PAY (R82): a count byte, then as many bytes. -/
def readPay : List Byte → Except DecodeError (List Byte × List Byte)
  | [] => .error .truncated
  | len :: rest => takeBytes len.toNat rest

/-- A 9-bit field (EXP, CNT of R82) in two bytes, low byte first; the upper seven bits are unused. -/
def read9 : List Byte → Except DecodeError (BitVec 9 × List Byte)
  | lo :: hi :: rest =>
    if hi ≤ 1 then .ok (BitVec.ofNat 9 (lo.toNat + 256 * hi.toNat), rest) else .error .unusedBits
  | _ => .error .truncated

/-- A 16-bit field in two bytes, low byte first. -/
def read16 : List Byte → Except DecodeError (BitVec 16 × List Byte)
  | lo :: hi :: rest => .ok (hi ++ lo, rest)
  | _ => .error .truncated

/-- The operands ID, LEN, PAY. -/
def readIdPay : List Byte → Except DecodeError (Byte × List Byte × List Byte)
  | [] => .error .truncated
  | id :: rest =>
    match readPay rest with
    | .ok (pay, rest) => .ok (id, pay, rest)
    | .error e => .error e

/-- The operands ID, LEN, PAY, EXP. -/
def readIdPayExp (bs : List Byte) : Except DecodeError (Byte × List Byte × BitVec 9 × List Byte) :=
  match readIdPay bs with
  | .ok (id, pay, rest) =>
    match read9 rest with
    | .ok (exp, rest) => .ok (id, pay, exp, rest)
    | .error e => .error e
  | .error e => .error e

/-- `n` tones, each frequency then duration. -/
def readTones : Nat → List Byte → Except DecodeError (List Tone × List Byte)
  | 0, bs => .ok ([], bs)
  | n + 1, bs =>
    match read16 bs with
    | .error e => .error e
    | .ok (freq, bs) =>
      match read16 bs with
      | .error e => .error e
      | .ok (dur, bs) =>
        match readTones n bs with
        | .error e => .error e
        | .ok (tones, bs) => .ok (⟨freq, dur⟩ :: tones, bs)

/-- The command port: OP in bits 1:0 of the first byte (R81), then the operands. -/
def decodePort : List Byte → Except DecodeError (Instr × List Byte)
  | [] => .error .empty
  | op :: bs =>
    if op = 0b00 then
      match readIdPay bs with
      | .ok (id, pay, rest) => .ok (.encode id pay, rest)
      | .error e => .error e
    else if op = 0b01 then
      match read9 bs with
      | .ok (cnt, rest) =>
        match takeBytes cnt.toNat rest with
        | .ok (raw, rest) => .ok (.decode raw, rest)
        | .error e => .error e
      | .error e => .error e
    else if op = 0b10 then
      match readIdPayExp bs with
      | .ok (id, pay, exp, rest) => .ok (.transceive id pay exp, rest)
      | .error e => .error e
    else if op = 0b11 then .ok (.reservedOp3, bs)
    else .error .unusedBits

/-- The transceiver's steps by the code of ST (R14): 1 SENDING to 5 ESCALATING have one step each; in 0 IDLE, 6 SUCCESS
and 7 FAULTED the one step is START, whose operands follow (R121, R130). -/
def decodeFsm : List Byte → Except DecodeError (Instr × List Byte)
  | [] => .error .empty
  | st :: bs =>
    if st = 1 then .ok (.send, bs)
    else if st = 2 then .ok (.recv, bs)
    else if st = 3 then .ok (.errsend, bs)
    else if st = 4 then .ok (.errrecv, bs)
    else if st = 5 then .ok (.escalate, bs)
    else if st ≤ 7 then
      match readIdPayExp bs with
      | .ok (id, pay, exp, rest) => .ok (.start id pay exp, rest)
      | .error e => .error e
    else .error .unusedBits

/-- The host-layer procedures (R87): a number of the model's own, then the arguments. -/
def decodeCall : List Byte → Except DecodeError (Instr × List Byte)
  | [] => .error .empty
  | call :: bs =>
    if call = 0 then .ok (.checkReset, bs)
    else if call = 1 then
      match bs with
      | mask :: rest => .ok (.setLeds mask, rest)
      | [] => .error .truncated
    else if call = 2 then
      match bs with
      | flag :: rest =>
        if flag ≤ 1 then
          match read16 rest with
          | .ok (n, rest) =>
            match readTones n.toNat rest with
            | .ok (tones, rest) => .ok (.beep tones (flag = 1), rest)
            | .error e => .error e
          | .error e => .error e
        else .error .unusedBits
      | [] => .error .truncated
    else if call = 3 then
      match read16 bs with
      | .ok (n, rest) =>
        match takeBytes n.toNat rest with
        | .ok (pay, rest) => .ok (.rfidSend pay, rest)
        | .error e => .error e
      | .error e => .error e
    else .error .noSuchCall

/-- A frame by its format (R70): id, length, as many payload bytes, one checksum byte, taken as it stands. -/
def readFrame : List Byte → Except DecodeError (Byte × FrameBody × List Byte)
  | [] => .error .empty
  | id :: bs =>
    match readPay bs with
    | .error e => .error e
    | .ok (pay, rest) =>
      match rest with
      | [] => .error .truncated
      | cs :: rest => .ok (id, ⟨pay, cs⟩, rest)

/-- The row of a frame with this id (R75 to R78). -/
def frameRow (c : Config) (id : Byte) (body : FrameBody) : Instr :=
  if id = Config.idRxError then .rxError body
  else if Config.maxEnumId < id then .unassignedId id body
  else if id = c.idAnswerToReset then .answerToReset body
  else if id = c.idGetStatus then .getStatus body
  else if id = c.idSetLed then .setLed body
  else if id = c.idAck then .ack body
  else if id = c.idBeep then .beepFrame body
  else if id = c.idRfidSend then .rfidSendFrame body
  else if id = c.idRfidSendComplete then .rfidSendComplete body
  else .firmwareIds id body

/-- The instruction at the front of `bs`, read in code space `src`, and the bytes behind it. -/
def decode (c : Config) (src : Source) (bs : List Byte) : Except DecodeError (Instr × List Byte) :=
  match src with
  | .port => decodePort bs
  | .fsm => decodeFsm bs
  | .call => decodeCall bs
  | .format =>
    match readFrame bs with
    | .ok (id, body, rest) => .ok (.frame id body, rest)
    | .error e => .error e
  | .wire =>
    match readFrame bs with
    | .ok (id, body, rest) => .ok (frameRow c id body, rest)
    | .error e => .error e

/-- The bytes are exactly one instruction. -/
def decodeExact (c : Config) (src : Source) (bs : List Byte) : Except DecodeError Instr :=
  match decode c src bs with
  | .ok (i, []) => .ok i
  | .ok (_, _ :: _) => .error .trailingBytes
  | .error e => .error e

/-! ### The encoder -/

/-- A count byte. -/
def countByte (bs : List Byte) : Byte := BitVec.ofNat 8 bs.length

/-- A natural number below 65536 in two bytes, low byte first. -/
def twoBytes (n : Nat) : List Byte := [BitVec.ofNat 8 n, BitVec.ofNat 8 (n / 256)]

/-- The operands ID, LEN, PAY. -/
def idPayBytes (id : Byte) (pay : List Byte) : List Byte := id :: countByte pay :: pay

/-- A tone as an argument of the call: frequency, duration, low bytes first. -/
def toneArgBytes (t : Tone) : List Byte := twoBytes t.freq.toNat ++ twoBytes t.dur.toNat

/-- The bytes of a frame (R70, R48). -/
def frameBytes (id : Byte) (body : FrameBody) : List Byte :=
  idPayBytes id body.payload ++ [body.checksum]

/-- The code space and the bytes of an instruction. -/
def encode (c : Config) : Instr → Source × List Byte
  | .encode id pay => (.port, 0b00 :: idPayBytes id pay)
  | .decode raw => (.port, 0b01 :: (twoBytes raw.length ++ raw))
  | .transceive id pay exp => (.port, 0b10 :: (idPayBytes id pay ++ twoBytes exp.toNat))
  | .reservedOp3 => (.port, [0b11])
  | .start id pay exp => (.fsm, 0 :: (idPayBytes id pay ++ twoBytes exp.toNat))
  | .send => (.fsm, [1])
  | .recv => (.fsm, [2])
  | .errsend => (.fsm, [3])
  | .errrecv => (.fsm, [4])
  | .escalate => (.fsm, [5])
  | .checkReset => (.call, [0])
  | .setLeds mask => (.call, [1, mask])
  | .beep tones again =>
    (.call, 2 :: (if again then 1 else 0) :: (twoBytes tones.length ++ tones.flatMap toneArgBytes))
  | .rfidSend pay => (.call, 3 :: (twoBytes pay.length ++ pay))
  | .frame id body => (.format, frameBytes id body)
  | .rxError body => (.wire, frameBytes Config.idRxError body)
  | .answerToReset body => (.wire, frameBytes c.idAnswerToReset body)
  | .getStatus body => (.wire, frameBytes c.idGetStatus body)
  | .setLed body => (.wire, frameBytes c.idSetLed body)
  | .ack body => (.wire, frameBytes c.idAck body)
  | .beepFrame body => (.wire, frameBytes c.idBeep body)
  | .rfidSendFrame body => (.wire, frameBytes c.idRfidSend body)
  | .rfidSendComplete body => (.wire, frameBytes c.idRfidSendComplete body)
  | .firmwareIds id body => (.wire, frameBytes id body)
  | .unassignedId id body => (.wire, frameBytes id body)

/-! ### The host's table words -/

/-- `n` bytes of a number, the least significant first. -/
def wordBytes : Nat → Nat → List Byte
  | 0, _ => []
  | n + 1, w => BitVec.ofNat 8 w :: wordBytes n (w / 256)

/-- The code space a table word is read in: the table numbers OP, ST and the frame ids each from 0, so a word alone does
not name its space. OP words have 2 bits, ST words 3; a word of whole bytes is an OP where it can be, else an ST code
where it can be, else the id byte of a frame. DESIGN CHOICE; notes/assumptions/13.md. -/
def tableSource (nbits w : Nat) : Source :=
  if nbits ≤ 2 then .port
  else if nbits ≤ 3 then .fsm
  else if w % 256 < 4 then .port
  else if w % 256 < 6 then .fsm
  else .wire

/-- The bytes of a table word, with operand bytes of zeros behind it: count bytes of zero, so that sixteen reach past the
longest instruction such a word can begin. -/
def tableBytes (nbits w : Nat) : List Byte :=
  wordBytes ((nbits + 7) / 8) w ++ List.replicate 16 0

/-- The instruction the decoder reads from a table word, for the parameters State.reset stands for. -/
def decodeTableWord (nbits w : Nat) : Option Instr :=
  match decode Config.board (tableSource nbits w) (tableBytes nbits w) with
  | .ok (i, _) => some i
  | .error _ => none

end Sys2Proof
end

