-- ==== Sys2Proof/Machine/State.lean ====
section
/-! DEFINITION. The state: the block's registers (10_state.md), the transport's side that the host or the block sees
(R23), and the host's side (R10). Plain data throughout. -/

namespace Sys2Proof.Machine

open Sys2Proof

/-- LR's Packet as DECODE returns it (R104): `payload` is what stands between header and last byte, whatever `length`
says. -/
structure Packet where
  id : Byte
  length : Byte
  payload : List Byte
  checksum : Byte
  deriving DecidableEq, Repr

/-- Sub-causes of CorruptedPacket (R104, R191). -/
inductive SubCause where
  | tooShort
  | length
  | checksum
  deriving DecidableEq, Repr

/-- The two outcomes of DECODE (R104). -/
inductive Decoded where
  | ok (p : Packet)
  | corrupt (c : SubCause)
  deriving DecidableEq, Repr

/-- The classes of a read's answer (R123). -/
inductive RxClass where
  | good (p : Packet)
  | err
  | fail
  deriving DecidableEq, Repr

/-- The values of ST (R14). -/
inductive St where
  | idle
  | sending
  | awaiting
  | retrying
  | reawaiting
  | escalating
  | success
  | faulted
  deriving DecidableEq, Repr

/-- The values of CAUSE that are ever written (R18); code 3 is reserved and never written (U13). -/
inductive Cause where
  | noCause
  | retryExhausted
  | errorEcho
  deriving DecidableEq, Repr

/-- The causes of ReaderFault (R192). -/
inductive ReaderCause where
  | retryExhausted
  | errorEcho
  | resetDrainTimeout
  | unexpectedResponseId
  deriving DecidableEq, Repr

/-- The four error kinds (R190). -/
inductive DriverError where
  | corruptedPacket (c : SubCause)
  | readerFault (c : ReaderCause)
  | deviceResetDetected
  | validationError
  deriving DecidableEq, Repr

/-- What the last operation told the host (R86, R88, R135, R190). -/
inductive Reply where
  | none
  /-- ENCODE's frame. -/
  | frame (bs : List Byte)
  /-- DECODE's or TRANSCEIVE's packet, or the result registers read. -/
  | packet (p : Packet)
  /-- START was accepted; the transaction runs. -/
  | started
  /-- START was refused: a transaction is running (R135). -/
  | busy
  /-- OP = 0b11 (R88). -/
  | refused
  /-- CHECK_RESET found no reset (R161). -/
  | proceed
  /-- SET_LEDS or BEEP is done (R162, R163). -/
  | done
  /-- RFID_SEND's response payload (R164). -/
  | payload (bs : List Byte)
  /-- The operation ended with an error kind. -/
  | error (e : DriverError)
  /-- STATUS as read (R19). -/
  | status (v : BitVec 10)
  deriving DecidableEq, Repr

/-- Which host procedure waits for the running transaction (R160, R228). -/
inductive Waiter where
  | nobody
  | transceive
  | setLeds
  | beep
  | rfidSend
  /-- The host is inside a transport call of CHECK_RESET that does not return (U15). -/
  | stuck
  deriving DecidableEq, Repr

/-- What an agent outside the block does next (R10, R52). -/
inductive Request where
  /-- An instruction, as bytes of a code space. -/
  | present (src : Source) (bs : List Byte)
  /-- The host reads STATUS (R19). -/
  | readStatus
  /-- The host reads the result registers (R13). -/
  | readResult
  /-- The block is reset (R220). -/
  | reset
  /-- Nobody outside acts: the transceiver may take a step. -/
  | quiet
  deriving DecidableEq, Repr

/-- A call of a transport primitive with its answer (R86's transport script; R42). -/
inductive Event where
  | tx (bs : List Byte)
  | rx (n : Nat) (bs : List Byte)
  | waiting (k : Nat)
  deriving DecidableEq, Repr

/-- The registers of the block (R12 to R18, R21). CMD_PAY and RES_PAY hold the entries that have a value (R22). -/
structure Block where
  cmdId : Byte
  cmdLen : Byte
  cmdPay : List Byte
  expLen : BitVec 9
  resId : Byte
  resLen : Byte
  resCnt : BitVec 9
  resPay : List Byte
  resCs : Byte
  st : St
  oc : BitVec 2
  ic : BitVec 2
  resValid : Bool
  cause : Cause
  rxBuf : List Byte
  deriving DecidableEq, Repr

/-- The transport's side (R23), and the free inputs of R44 and R133. -/
structure Transport where
  /-- The receive queue: bytes that have arrived and have not been read, first first (R23a). -/
  rxQueue : List Byte
  /-- The calls made so far with their answers, oldest first; its `tx` entries are the transmit history (R23b). -/
  history : List Event
  /-- MODEL's own: what the line does before each coming receive call (R44). -/
  arrivals : List Arrival
  /-- MODEL's own: how many free arrivals have been drawn. -/
  draws : Nat
  /-- MODEL's own: how many more calls return; none: the transport keeps its contract (R133, D27). -/
  callsLeft : Option Nat
  deriving DecidableEq, Repr

/-- The host's side (R10a); all of it the MODEL's own. -/
structure HostSide where
  waiter : Waiter
  reply : Reply
  /-- What the agents outside the block do in the coming steps, first first. -/
  pending : List Request
  deriving DecidableEq, Repr

/-- The whole machine. -/
structure State where
  cfg : Config
  block : Block
  transport : Transport
  host : HostSide
  deriving DecidableEq, Repr

/-- Why the machine stops. -/
inductive Fault where
  /-- Raised by `fetchRequest`: the host reads the result registers after START has invalidated them and before the next
  SUCCESS. R22 names this case: they hold no value, and a read is a fault of the model. Safe: the machine stops where the
  spec says that a model faults. No instruction raises it. -/
  | noValue
  deriving DecidableEq, Repr

/-- Why a request has no meaning. -/
inductive Refusal where
  /-- Raised by exec's arms only, for an instruction that has no meaning yet. Safe. -/
  | notModelled (mnemonic : String)
  /-- Raised by the meanings of ENCODE, DECODE, TRANSCEIVE, START and the frame rows for an operand wider than its port
  or field (U17: refuse at the boundary); a decoded instruction never is. Safe. -/
  | notExpressible (mnemonic : String)
  /-- Raised by `fetch` for bytes that are no instruction of their code space. Safe. -/
  | undecodable (e : DecodeError)
  deriving DecidableEq, Repr

/-- The block after reset (R25, R220). The registers from CMD_ID to RES_CS and the internal receive buffer have no value
there; the zeros are a DESIGN CHOICE, unsafe; notes/assumptions/5.md. -/
def Block.reset : Block where
  cmdId := 0
  cmdLen := 0
  cmdPay := []
  expLen := 0
  resId := 0
  resLen := 0
  resCnt := 0
  resPay := []
  resCs := 0
  st := .idle
  oc := 0
  ic := 0
  resValid := false
  cause := .noCause
  rxBuf := []

/-- A transport nobody has used yet; what waits in it arrives with the first free arrival (R25, R230);
notes/assumptions/8.md. -/
def Transport.fresh : Transport where
  rxQueue := []
  history := []
  arrivals := []
  draws := 0
  callsLeft := none

/-- A host that has done nothing yet. -/
def HostSide.fresh : HostSide where
  waiter := .nobody
  reply := .none
  pending := []

/-- The machine right after its first reset (R25, R222). -/
def State.reset : State where
  cfg := Config.board
  block := Block.reset
  transport := Transport.fresh
  host := HostSide.fresh

end Sys2Proof.Machine
end

