-- ==== Sys2Proof/Machine/Codec.lean ====
section
/-! DEFINITION. The packet codec as pure functions (41_codec.md): CHECKSUM, ENCODE, DECODE. -/

namespace Sys2Proof.Machine

open Sys2Proof

/-- CHECKSUM(s) = XOR(s), 0x00 for the empty sequence (R100). -/
def checksum : List Byte → Byte
  | [] => 0
  | b :: bs => b ^^^ checksum bs

/-- The streaming form: one byte at a time into an 8-bit accumulator (R101). -/
def accumulate (acc : Byte) : List Byte → Byte
  | [] => acc
  | b :: bs => accumulate (acc ^^^ b) bs

/-- zext_8(|payload|) (R72, R83); exact for the payloads the port carries (R111). -/
def lenByte (pay : List Byte) : Byte := BitVec.ofNat 8 pay.length

/-- ENCODE (R102). -/
def encodeFrame (id : Byte) (pay : List Byte) : List Byte :=
  let body := id :: lenByte pay :: pay
  body ++ [checksum body]

/-- The RX_ERROR signal: ENCODE(0xFF, []) (R80). -/
def errorSignal : List Byte := encodeFrame Config.idRxError []

/-- The checks of DECODE after the too-short test, on the parts of the input (R104, R105). -/
def decodeParts (lenCheck : Bool) (p : Packet) : Decoded :=
  if lenCheck ∧ p.length.toNat ≠ p.payload.length then .corrupt .length
  else if p.id ^^^ p.length ^^^ checksum p.payload ≠ p.checksum then .corrupt .checksum
  else .ok p

/-- DECODE under either setting of LEN_CHECK (R104, R105): the payload is what stands between the header and the last
byte. -/
def decodeFrame (lenCheck : Bool) : List Byte → Decoded
  | id :: len :: b :: rest =>
    decodeParts lenCheck ⟨id, len, (b :: rest).dropLast, (b :: rest).getLast (List.cons_ne_nil b rest)⟩
  | _ => .corrupt .tooShort

/-- RXCLASS (R123): a read that came up short fails and is not decoded. -/
def rxClass (lenCheck : Bool) (r : List Byte) (n : Nat) : RxClass :=
  if r.length < n then .fail
  else
    match decodeFrame lenCheck r with
    | .corrupt _ => .fail
    | .ok p => if p.id = Config.idRxError then .err else .good p

end Sys2Proof.Machine
end

