-- ==== Sys2Proof/Machine/Flags.lean ====
section
/-! DEFINITION. Codes, flags and the status view: ST (R14), CAUSE (R18), STATUS (R19), the error codes (R190 to R192), the
validity of the result registers (R17, R22). -/

namespace Sys2Proof.Machine

open Sys2Proof

/-- The 3-bit code of ST (R14). -/
def St.code : St → BitVec 3
  | .idle => 0
  | .sending => 1
  | .awaiting => 2
  | .retrying => 3
  | .reawaiting => 4
  | .escalating => 5
  | .success => 6
  | .faulted => 7

/-- The state with a code (R14). -/
def St.ofCode (c : BitVec 3) : St :=
  if c = 0 then .idle
  else if c = 1 then .sending
  else if c = 2 then .awaiting
  else if c = 3 then .retrying
  else if c = 4 then .reawaiting
  else if c = 5 then .escalating
  else if c = 6 then .success
  else .faulted

/-- The 2-bit code of CAUSE (R18). -/
def Cause.code : Cause → BitVec 2
  | .noCause => 0
  | .retryExhausted => 1
  | .errorEcho => 2

/-- The codes of CorruptedPacket's sub-causes (R104, R191). -/
def SubCause.code : SubCause → Nat
  | .tooShort => 1
  | .length => 2
  | .checksum => 3

/-- The codes of ReaderFault's causes (R192). -/
def ReaderCause.code : ReaderCause → Nat
  | .retryExhausted => 1
  | .errorEcho => 2
  | .resetDrainTimeout => 3
  | .unexpectedResponseId => 4

/-- The codes of the error kinds (R190); 0 is no error. -/
def DriverError.kindCode : DriverError → Nat
  | .corruptedPacket _ => 1
  | .readerFault _ => 2
  | .deviceResetDetected => 3
  | .validationError => 4

/-- The ReaderFault cause that CAUSE holds (R128, R192). -/
def Cause.toReader : Cause → Option ReaderCause
  | .noCause => none
  | .retryExhausted => some .retryExhausted
  | .errorEcho => some .errorEcho

/-- STATUS, a 10-bit view: ST in 2:0, OC in 4:3, IC in 6:5, RES_VALID in 7, CAUSE in 9:8 (R19). -/
def Block.status (b : Block) : BitVec 10 :=
  b.cause.code ++ (BitVec.ofBool b.resValid ++ (b.ic ++ (b.oc ++ b.st.code)))

/-- START is accepted: IDLE and the two terminal states (R121, R135). -/
def Block.accepts (b : Block) : Bool := b.st = .idle ∨ b.st = .success ∨ b.st = .faulted

/-- A terminal state (R128). -/
def Block.terminal (b : Block) : Bool := b.st = .success ∨ b.st = .faulted

/-- The first `n` entries of an array that is held as the list of its written entries. An entry that nothing has written
reads as zero. DESIGN CHOICE; notes/assumptions/6.md. -/
def arrayRead (n : Nat) (written : List Byte) : List Byte := (written ++ List.replicate n 0).take n

/-- CMD_PAY[0 .. CMD_LEN-1] (R122). -/
def Block.cmdPayload (b : Block) : List Byte := arrayRead b.cmdLen.toNat b.cmdPay

/-- The result registers as they stand, with RES_PAY[0 .. RES_CNT-1] for the payload (R13, R164). -/
def Block.resultPacket (b : Block) : Packet := ⟨b.resId, b.resLen, arrayRead b.resCnt.toNat b.resPay, b.resCs⟩

/-- The transaction's packet; there is none while RES_VALID = 0 (R17, R128). -/
def Block.result (b : Block) : Option Packet := if b.resValid then some b.resultPacket else none

/-- What the host reads from the result registers. Between reset and the first START they hold their reset values; once
START has invalidated them they hold no value until the next SUCCESS (R22). DESIGN CHOICE for the reset values;
notes/assumptions/5.md. -/
def Block.hostRead (b : Block) : Option Packet :=
  if b.resValid ∨ b.st = .idle then some b.resultPacket else none

end Sys2Proof.Machine
end

