-- ==== Sys2Proof/Machine/Operands.lean ====
section
/-! DEFINITION. How the host layer's arguments become payload bytes (R83, R162 to R164), and a frame row's bytes. -/

namespace Sys2Proof.Machine

open Sys2Proof

/-- BYTES16 (R163): high byte first when TONE_ENDIAN = big, low byte first when little. -/
def bytes16 (e : Endian) (v : BitVec 16) : List Byte :=
  match e with
  | .big => [v.extractLsb' 8 8, v.extractLsb' 0 8]
  | .little => [v.extractLsb' 0 8, v.extractLsb' 8 8]

/-- One tone: frequency, then duration, in the same byte order (R163). -/
def toneBytes (e : Endian) (t : Tone) : List Byte := bytes16 e t.freq ++ bytes16 e t.dur

/-- BEEP's payload: the tones in list order, then the repeat byte (R163). -/
def beepPayload (e : Endian) (tones : List Tone) (again : Bool) : List Byte :=
  tones.flatMap (toneBytes e) ++ [if again then 0x01 else 0x00]

/-- SET_LED's payload: zext_8(mask) (R162). -/
def ledPayload (mask : Byte) : List Byte := [mask]

/-- RFID_SEND's EXP: |payload| + TRANSMIT_OVERHEAD (R83, R164). -/
def rfidExp (pay : List Byte) : BitVec 9 := BitVec.ofNat 9 (pay.length + Config.transmitOverhead)

/-- A frame as it stands on the wire: id, length, payload, checksum, in this order (R70, R48). -/
def lineBytes (id : Byte) (body : FrameBody) : List Byte :=
  id :: lenByte body.payload :: body.payload ++ [body.checksum]

end Sys2Proof.Machine
end

