-- ==== Sys2Proof/Machine/Ops.lean ====
section
/-! DEFINITION. The named operations: the three transport primitives (20_memory.md section 2), the register writes of the
transceiver (42_transceiver.md), what the host is told, CHECK_RESET (R161), and the entry into a fault (R198) with the way
out of it (R199). -/

namespace Sys2Proof.Machine

open Sys2Proof

/-- What a meaning answers. -/
abbrev Result := Host.Outcome State Fault Refusal

/-! ### The transport -/

/-- One of the calls that return is made. -/
def Transport.spend (t : Transport) : Transport := { t with callsLeft := t.callsLeft.map (fun k => k - 1) }

/-- One transport call is made; none when it does not return (R133, U15). -/
def Transport.returns (t : Transport) : Option Transport :=
  if t.callsLeft = some 0 then none else some t.spend

/-- What the line does before the next receive call: the listed arrival, or a free one (R44). -/
def Transport.draw (t : Transport) : Arrival × Transport :=
  match t.arrivals with
  | a :: rest => (a, { t with arrivals := rest })
  | [] => (Config.freeArrival t.draws, { t with draws := t.draws + 1 })

/-- An arrival takes place: some bytes of the queue are lost, others come in behind the rest (R44, R46). -/
def Transport.bring (a : Arrival) (t : Transport) : Transport :=
  { t with rxQueue := t.rxQueue.drop a.lost ++ a.bytes }

/-- The next arrival takes place. -/
def Transport.listen (t : Transport) : Transport := t.draw.2.bring t.draw.1

/-- Bytes come in behind what waits (R23a, R46). -/
def Transport.arrive (bs : List Byte) (t : Transport) : Transport :=
  { t with rxQueue := t.rxQueue ++ bs }

/-- A call and its answer enter the history (R42, R86). -/
def Transport.record (e : Event) (t : Transport) : Transport :=
  { t with history := t.history ++ [e] }

/-- TxWrite(s): every byte is sent, in order, before it returns (R42). -/
def Transport.write (bs : List Byte) (t : Transport) : Option Transport :=
  t.returns.map (Transport.record (.tx bs))

/-- The queue's first `n` bytes, or all there are, are taken from it (R43). -/
def Transport.take (n : Nat) (t : Transport) : List Byte × Transport :=
  (t.rxQueue.take n, ({ t with rxQueue := t.rxQueue.drop n }).record (.rx n (t.rxQueue.take n)))

/-- RxRead(n): the next at most `n` bytes of the receive stream after what comes in while it waits; fewer than `n` is the
timeout (R43). RxRead(0) answers [] and waits for nothing. -/
def Transport.read (n : Nat) (t : Transport) : Option (List Byte × Transport) :=
  match t.returns with
  | none => none
  | some t =>
    if n = 0 then some (t.take 0) else some (t.listen.take n)

/-- RxWaiting(): the number of bytes in the receive queue; none is removed (R45). -/
def Transport.waiting (t : Transport) : Option (Nat × Transport) :=
  match t.returns with
  | none => none
  | some t => some (t.listen.rxQueue.length, t.listen.record (.waiting t.listen.rxQueue.length))

/-! ### The transceiver's register writes -/

/-- START's writes (R121): the command is copied (R54), the counters, RES_VALID and CAUSE are cleared. It is also the only
way out of a terminal state, FAULTED among them (R199). -/
def Block.start (id : Byte) (pay : List Byte) (exp : BitVec 9) (b : Block) : Block :=
  { b with
    cmdId := id, cmdLen := lenByte pay, cmdPay := pay, expLen := exp
    oc := 0, ic := 0, resValid := false, cause := .noCause, st := .sending }

/-- The transition into SUCCESS (R124, R126, R128): the packet into the result registers, RES_VALID set. -/
def Block.succeed (p : Packet) (b : Block) : Block :=
  { b with
    resId := p.id, resLen := p.length, resCnt := BitVec.ofNat 9 p.payload.length, resPay := p.payload
    resCs := p.checksum, resValid := true, st := .success }

/-- Entry into a fault (R198): CAUSE and ST are written, nothing else. -/
def Block.escalateWith (c : Cause) (b : Block) : Block := { b with cause := c, st := .escalating }

/-- ST <- S. -/
def Block.goto (st : St) (b : Block) : Block := { b with st := st }

/-- SEND's writes (R122). -/
def Block.sent (b : Block) : Block := { b with oc := b.oc + 1, st := .awaiting }

/-- ERRSEND's writes (R125). -/
def Block.errSent (b : Block) : Block := { b with ic := b.ic + 1, st := .reawaiting }

/-- Entry into the inner recovery loop (R124). -/
def Block.enterInner (b : Block) : Block := { b with ic := 0, st := .retrying }

/-! ### State updates and the host -/

def State.setBlock (b : Block) (s : State) : State := { s with block := b }

def State.setTransport (t : Transport) (s : State) : State := { s with transport := t }

/-- The host is told something. -/
def State.tell (r : Reply) (s : State) : State := { s with host := { s.host with reply := r } }

/-- The host procedure that waits changes. -/
def State.await (w : Waiter) (s : State) : State := { s with host := { s.host with waiter := w } }

/-- STATUS as the host reads it (R19). -/
def State.status (s : State) : BitVec 10 := s.block.status

/-- The packet the host can read (R13, R128). -/
def State.result (s : State) : Option Packet := s.block.result

/-- Stages (4) and (5) of a command whose TRANSCEIVE ended with a packet: the id is compared (R160, R162 to R164, R87); a
bare TRANSCEIVE returns the packet (R120). -/
def successReply (c : Config) (w : Waiter) (p : Packet) : Reply :=
  match w with
  | .setLeds => if p.id = c.idAck then .done else .error (.readerFault .unexpectedResponseId)
  | .beep => if p.id = c.idAck then .done else .error (.readerFault .unexpectedResponseId)
  | .rfidSend =>
    if p.id = c.idRfidSendComplete then .payload p.payload else .error (.readerFault .unexpectedResponseId)
  | .transceive => .packet p
  | .nobody => .packet p
  | .stuck => .packet p

/-- The transaction is over: the waiting host procedure ends with its result or with ReaderFault(CAUSE) (R128, R160,
R195). A host that waits for nothing, or is stuck in a transport call, is told nothing. -/
def State.conclude (r : Reply) (s : State) : State :=
  match s.host.waiter with
  | .nobody => s
  | .stuck => s
  | _ => (s.tell r).await .nobody

/-- SUCCESS is entered with packet `p` (R124, R126), and the host procedure goes on. -/
def State.succeed (p : Packet) (s : State) : State :=
  let s := s.setBlock (s.block.succeed p)
  match s.result with
  | some p => s.conclude (successReply s.cfg s.host.waiter p)
  | none => s

/-- FAULTED is entered (R127, R128): the outcome is ReaderFault(CAUSE). -/
def State.faulted (s : State) : State :=
  let s := s.setBlock (s.block.goto .faulted)
  match s.block.cause.toReader with
  | some c => s.conclude (.error (.readerFault c))
  | none => s

/-- START, or BUSY when a transaction is running (R121, R135); `w` is who waits for the outcome. -/
def State.startOrBusy (w : Waiter) (id : Byte) (pay : List Byte) (exp : BitVec 9) (s : State) : State :=
  if s.block.accepts then ((s.setBlock (s.block.start id pay exp)).await w).tell .started
  else s.tell .busy

/-- RxRead(EXP_LEN) into the internal receive buffer (R21, R124, R126); none when it does not return. -/
def State.receive (s : State) : Option State :=
  match s.transport.read s.block.expLen.toNat with
  | none => none
  | some (r, t) => some ((s.setTransport t).setBlock { s.block with rxBuf := r })

/-- The class of what the internal receive buffer holds (R123). -/
def State.rxClass (s : State) : RxClass :=
  Machine.rxClass s.cfg.lenCheck s.block.rxBuf s.block.expLen.toNat

/-- RECV's writes for a class (R124: T3 to T6). -/
def State.afterRecv (c : RxClass) (s : State) : State :=
  match c with
  | .good p => s.succeed p
  | .err =>
    if s.block.oc < Config.outerMax then s.setBlock (s.block.goto .sending)
    else s.setBlock (s.block.escalateWith .retryExhausted)
  | .fail => s.setBlock s.block.enterInner

/-- ERRRECV's writes for a class (R126: T8 to T12). -/
def State.afterErrRecv (c : RxClass) (s : State) : State :=
  match c with
  | .good p => s.succeed p
  | .err => s.setBlock (s.block.escalateWith .errorEcho)
  | .fail =>
    if s.block.ic < Config.innerMax then s.setBlock (s.block.goto .retrying)
    else if s.block.oc < Config.outerMax then s.setBlock (s.block.goto .sending)
    else s.setBlock (s.block.escalateWith .retryExhausted)

/-- Reset of the block (R220): R25's values, the data registers as at State.reset; the transport and its queue are not
touched, and the Reader instance that waited is gone. -/
def State.resetBlock (s : State) : State :=
  { s with block := Block.reset, host := { s.host with waiter := .nobody, reply := .none } }

/-! ### CHECK_RESET -/

/-- How CHECK_RESET ends (R161, U15). -/
inductive ResetCheck where
  | proceed
  | failed (e : DriverError)
  | hangs
  deriving DecidableEq, Repr

/-- CHECK_RESET (R161): the test is `= 5` as written (R167); the five bytes are read and discarded, not parsed. -/
def Transport.checkReset (t : Transport) : ResetCheck × Transport :=
  match t.waiting with
  | none => (.hangs, t)
  | some (w, t) =>
    if w = Config.resetNotifyLen then
      match t.read Config.resetNotifyLen with
      | none => (.hangs, t)
      | some (r, t) =>
        if r.length < Config.resetNotifyLen then (.failed (.readerFault .resetDrainTimeout), t)
        else (.failed .deviceResetDetected, t)
    else (.proceed, t)

/-- Stages (2) and (3) of a command (R160): CHECK_RESET, then TRANSCEIVE, whose outcome `w` waits for. -/
def State.command (w : Waiter) (id : Byte) (pay : List Byte) (exp : BitVec 9) (s : State) : State :=
  match s.transport.checkReset with
  | (.hangs, t) => (s.setTransport t).await .stuck
  | (.failed e, t) => (s.setTransport t).tell (.error e)
  | (.proceed, t) => (s.setTransport t).startOrBusy w id pay exp

/-- Bytes from the device come in on the line (R23a, R46). -/
def State.arrive (bs : List Byte) (s : State) : State := s.setTransport (s.transport.arrive bs)

end Sys2Proof.Machine
end

