-- ==== Sys2Proof/Machine/Frames.lean ====
section
/-! DEFINITION. Frames on the wire (30_encoding.md): a frame row is executed by the line, not by the block. The frame's
bytes come in at the end of the receive queue (R23a, R40b), where the next RxRead takes them; what the block makes of them
it decides there, by RXCLASS (R123). The bytes are passed on as they stand: no id and no checksum is checked on the way
(R71, R78, R106). notes/assumptions/14.md. -/

namespace Sys2Proof.Machine

open Sys2Proof

/-- A frame with this id comes in; a payload that no length byte can count is no frame (R72, U17). -/
def State.frameArrives (mnemonic : String) (id : Byte) (body : FrameBody) (s : State) : Result :=
  if payFits body.payload then .next (s.arrive (lineBytes id body))
  else .refused (.notExpressible mnemonic)

/-- FRAME (R70, R71): any id. -/
def execFrame (id : Byte) (body : FrameBody) (s : State) : Result := s.frameArrives "FRAME" id body

/-- RX_ERROR (R76): the id the transceiver compares with (R123). -/
def execRxError (body : FrameBody) (s : State) : Result := s.frameArrives "RX_ERROR" Config.idRxError body

/-- ANSWER_TO_RESET (R75): unsolicited; it waits in the queue until CHECK_RESET polls (R161, R196). -/
def execAnswerToReset (body : FrameBody) (s : State) : Result :=
  s.frameArrives "ANSWER_TO_RESET" s.cfg.idAnswerToReset body

/-- GET_STATUS (R75). -/
def execGetStatus (body : FrameBody) (s : State) : Result := s.frameArrives "GET_STATUS" s.cfg.idGetStatus body

/-- SET_LED (R75). -/
def execSetLed (body : FrameBody) (s : State) : Result := s.frameArrives "SET_LED" s.cfg.idSetLed body

/-- ACK (R75): the reply SET_LEDS and BEEP expect. -/
def execAck (body : FrameBody) (s : State) : Result := s.frameArrives "ACK" s.cfg.idAck body

/-- BEEP as a frame (R75). -/
def execBeepFrame (body : FrameBody) (s : State) : Result := s.frameArrives "BEEP_FRAME" s.cfg.idBeep body

/-- RFID_SEND as a frame (R75). -/
def execRfidSendFrame (body : FrameBody) (s : State) : Result :=
  s.frameArrives "RFID_SEND_FRAME" s.cfg.idRfidSend body

/-- RFID_SEND_COMPLETE (R75): the reply RFID_SEND expects. -/
def execRfidSendComplete (body : FrameBody) (s : State) : Result :=
  s.frameArrives "RFID_SEND_COMPLETE" s.cfg.idRfidSendComplete body

/-- FIRMWARE_IDS (R77): bytes like any other. -/
def execFirmwareIds (id : Byte) (body : FrameBody) (s : State) : Result := s.frameArrives "FIRMWARE_IDS" id body

/-- UNASSIGNED_ID (R78): not rejected. -/
def execUnassignedId (id : Byte) (body : FrameBody) (s : State) : Result := s.frameArrives "UNASSIGNED_ID" id body

end Sys2Proof.Machine
end

