-- ==== Sys2Proof/Machine/HostLayer.lean ====
section
/-! DEFINITION. The host layer (43_host_layer.md): CHECK_RESET and the three commands, in R160's order: arguments first,
then CHECK_RESET, then TRANSCEIVE; the comparison of the id follows when the transaction ends (`State.conclude`). -/

namespace Sys2Proof.Machine

open Sys2Proof

/-- CHECK_RESET (R161). -/
def execCheckReset (s : State) : Result :=
  match s.transport.checkReset with
  | (.hangs, t) => .next ((s.setTransport t).await .stuck)
  | (.failed e, t) => .next ((s.setTransport t).tell (.error e))
  | (.proceed, t) => .next ((s.setTransport t).tell .proceed)

/-- SET_LEDS mask (R162); a mask above 0b111 is a ValidationError (D19, R194). -/
def execSetLeds (mask : Byte) (s : State) : Result :=
  if Config.maxMask < mask then .next (s.tell (.error .validationError))
  else .next (s.command .setLeds s.cfg.idSetLed (ledPayload mask) Config.responseAtr)

/-- BEEP tones, repeat (R163). -/
def execBeep (tones : List Tone) (again : Bool) (s : State) : Result :=
  if Config.maxTones < tones.length then .next (s.tell (.error .validationError))
  else .next (s.command .beep s.cfg.idBeep (beepPayload s.cfg.toneEndian tones again) Config.responseAtr)

/-- RFID_SEND payload (R164). -/
def execRfidSend (pay : List Byte) (s : State) : Result :=
  if Config.maxRfid < pay.length then .next (s.tell (.error .validationError))
  else .next (s.command .rfidSend s.cfg.idRfidSend pay (rfidExp pay))

end Sys2Proof.Machine
end

