-- ==== Sys2Proof/Machine/PortOps.lean ====
section
/-! DEFINITION. The operations of the command port (R81): ENCODE, DECODE, TRANSCEIVE, and the reserved OP. -/

namespace Sys2Proof.Machine

open Sys2Proof

/-- ENCODE id, payload (R102): pure, accepted in every state (R135); the host gets the frame. -/
def execEncode (id : Byte) (pay : List Byte) (s : State) : Result :=
  if payFits pay then .next (s.tell (.frame (encodeFrame id pay)))
  else .refused (.notExpressible "ENCODE")

/-- What DECODE tells the host: the packet, or CorruptedPacket (R104, R191). -/
def decodedReply : Decoded → Reply
  | .ok p => .packet p
  | .corrupt c => .error (.corruptedPacket c)

/-- DECODE raw (R104, R105): pure, accepted in every state (R135). -/
def execDecode (raw : List Byte) (s : State) : Result :=
  if rawFits raw then .next (s.tell (decodedReply (decodeFrame s.cfg.lenCheck raw)))
  else .refused (.notExpressible "DECODE")

/-- TRANSCEIVE id, payload, exp (R120): fires START, or is told BUSY (R135); the machine's steps then run it. -/
def execTransceive (id : Byte) (pay : List Byte) (exp : BitVec 9) (s : State) : Result :=
  if payFits pay then .next (s.startOrBusy .transceive id pay exp)
  else .refused (.notExpressible "TRANSCEIVE")

/-- OP = 0b11 (R88): no register changes, no transport call, the host is told REFUSED. -/
def execReservedOp3 (s : State) : Result := .next (s.tell .refused)

end Sys2Proof.Machine
end

