-- ==== Sys2Proof/Machine/Transceiver.lean ====
section
/-! DEFINITION. The steps of the transceiver (42_transceiver.md section 2, R130). A step whose state is not ST is not
enabled and does not fire: nothing changes (R130, notes/assumptions/16.md). A step whose transport call does not return
leaves the machine in its state (R133). -/

namespace Sys2Proof.Machine

open Sys2Proof

/-- START (R121, T1); BUSY while a transaction is running (R135). -/
def execStart (id : Byte) (pay : List Byte) (exp : BitVec 9) (s : State) : Result :=
  if payFits pay then .next (s.startOrBusy .transceive id pay exp)
  else .refused (.notExpressible "START")

/-- SEND (R122, T2): the original packet is transmitted, OC counts it. -/
def execSend (s : State) : Result :=
  if s.block.st = .sending then
    match s.transport.write (encodeFrame s.block.cmdId s.block.cmdPayload) with
    | some t => .next ((s.setTransport t).setBlock s.block.sent)
    | none => .next s
  else .next s

/-- RECV (R124, T3 to T6): the response to the original packet is read and classified. -/
def execRecv (s : State) : Result :=
  if s.block.st = .awaiting then
    match s.receive with
    | some s => .next (s.afterRecv s.rxClass)
    | none => .next s
  else .next s

/-- ERRSEND (R125, T7): the RX_ERROR signal is transmitted, IC counts it. -/
def execErrsend (s : State) : Result :=
  if s.block.st = .retrying then
    match s.transport.write errorSignal with
    | some t => .next ((s.setTransport t).setBlock s.block.errSent)
    | none => .next s
  else .next s

/-- ERRRECV (R126, T8 to T12): the response to the signal is read, as many bytes as the first time (D13), and
classified. -/
def execErrrecv (s : State) : Result :=
  if s.block.st = .reawaiting then
    match s.receive with
    | some s => .next (s.afterErrRecv s.rxClass)
    | none => .next s
  else .next s

/-- ESCALATE (R127, T13): FAULTED, without input and without a transport call. -/
def execEscalate (s : State) : Result :=
  if s.block.st = .escalating then .next s.faulted else .next s

end Sys2Proof.Machine
end

