-- ==== Sys2Proof/Machine/Dispatch.lean ====
section
/-! DEFINITION. One arm per instruction. -/

namespace Sys2Proof.Machine

open Sys2Proof

-- One arm per row of spec/opcode_table.json, in the table's order.
def exec (i : Instr) (s : State) : Host.Outcome State Fault Refusal :=
  match i with
  | .encode id pay => Sys2Proof.Machine.execEncode id pay s
  | .decode raw => Sys2Proof.Machine.execDecode raw s
  | .transceive id pay exp => Sys2Proof.Machine.execTransceive id pay exp s
  | .reservedOp3 => Sys2Proof.Machine.execReservedOp3 s
  | .start id pay exp => Sys2Proof.Machine.execStart id pay exp s
  | .send => Sys2Proof.Machine.execSend s
  | .recv => Sys2Proof.Machine.execRecv s
  | .errsend => Sys2Proof.Machine.execErrsend s
  | .errrecv => Sys2Proof.Machine.execErrrecv s
  | .escalate => Sys2Proof.Machine.execEscalate s
  | .checkReset => Sys2Proof.Machine.execCheckReset s
  | .setLeds mask => Sys2Proof.Machine.execSetLeds mask s
  | .beep tones again => Sys2Proof.Machine.execBeep tones again s
  | .rfidSend pay => Sys2Proof.Machine.execRfidSend pay s
  | .frame id body => Sys2Proof.Machine.execFrame id body s
  | .rxError body => Sys2Proof.Machine.execRxError body s
  | .answerToReset body => Sys2Proof.Machine.execAnswerToReset body s
  | .getStatus body => Sys2Proof.Machine.execGetStatus body s
  | .setLed body => Sys2Proof.Machine.execSetLed body s
  | .ack body => Sys2Proof.Machine.execAck body s
  | .beepFrame body => Sys2Proof.Machine.execBeepFrame body s
  | .rfidSendFrame body => Sys2Proof.Machine.execRfidSendFrame body s
  | .rfidSendComplete body => Sys2Proof.Machine.execRfidSendComplete body s
  | .firmwareIds id body => Sys2Proof.Machine.execFirmwareIds id body s
  | .unassignedId id body => Sys2Proof.Machine.execUnassignedId id body s

end Sys2Proof.Machine
end

