-- ==== Sys2Proof/Machine/Fetch.lean ====
section
/-! DEFINITION. Which move comes next, and where an instruction is read from. The block has no program counter: ST says
which step of the transceiver comes next (R14), and the agents outside the block present their requests
(`host.pending`). One move at a time (R52); notes/assumptions/11.md. -/

namespace Sys2Proof.Machine

open Sys2Proof

/-- What the next step does. -/
inductive Fetched where
  /-- It runs an instruction, in the state with the request taken. -/
  | run (i : Instr) (s : State)
  /-- It is a host access or reset, or nothing is enabled: the next state. -/
  | moved (s : State)
  | stops (f : Fault)
  | rejects (r : Refusal)
  deriving DecidableEq, Repr

/-- The byte of ST's code. -/
def State.stByte (s : State) : Byte := s.block.st.code.zeroExtend 8

/-- The transceiver's own move: in IDLE, SUCCESS and FAULTED none is enabled (R128, R205); else the step of ST (R130). -/
def fetchFsm (s : State) : Fetched :=
  if s.block.accepts then .moved s
  else
    match decodeExact s.cfg .fsm [s.stByte] with
    | .ok i => .run i s
    | .error e => .rejects (.undecodable e)

/-- The first pending request is taken from the list. -/
def State.popTo (rest : List Request) (s : State) : State := { s with host := { s.host with pending := rest } }

/-- A request from outside, in the state with the request taken. -/
def fetchRequest (r : Request) (s : State) : Fetched :=
  match r with
  | .present src bs =>
    match decodeExact s.cfg src bs with
    | .ok i => .run i s
    | .error e => .rejects (.undecodable e)
  | .readStatus => .moved (s.tell (.status s.status))
  | .readResult =>
    match s.block.hostRead with
    | some p => .moved (s.tell (.packet p))
    | none => .stops .noValue
  | .reset => .moved s.resetBlock
  | .quiet => fetchFsm s

/-- Is it the host that makes this request? Frames come from the line, and reset is the creation of a new Reader instance
(R220). -/
def Request.fromHost : Request → Bool
  | .present src _ =>
    match src with
    | .port => true
    | .fsm => true
    | .call => true
    | .format => false
    | .wire => false
  | .readStatus => true
  | .readResult => true
  | .reset => false
  | .quiet => false

/-- The next move. A host that is stuck in a transport call makes no request any more (U15, R228): where the list has one,
the step is the transceiver's. The line's frames and a reset are taken all the same: the spec gives a reset no condition
(R220, U16) and is silent on a host that hangs. DESIGN CHOICE; notes/assumptions/10.md, notes/assumptions/23.md. -/
def fetch (s : State) : Fetched :=
  match s.host.pending with
  | [] => fetchFsm s
  | r :: rest =>
    if s.host.waiter = .stuck ∧ r.fromHost then fetchFsm (s.popTo rest) else fetchRequest r (s.popTo rest)

/-! ### The host's table words -/

/-- The bytes of the instruction a table word gives, without the zeros behind it. -/
def wordInstrBytes (c : Config) (nbits w : Nat) : List Byte :=
  let bs := tableBytes nbits w
  match decode c (tableSource nbits w) bs with
  | .ok (_, rest) => bs.take (bs.length - rest.length)
  | .error _ => bs

/-- The table word's instruction is presented first, ahead of what pends; a step code also goes into ST, which selects the
step (R14), and a host stuck in a transport call is free again. -/
def State.presentWord (s : State) (nbits w : Nat) : State :=
  let src := tableSource nbits w
  { s with
    block :=
      if src = .fsm then { s.block with st := St.ofCode (BitVec.ofNat 3 w) } else s.block
    host := { s.host with
      waiter := if s.host.waiter = .stuck then .nobody else s.host.waiter
      pending := .present src (wordInstrBytes s.cfg nbits w) :: s.host.pending } }

end Sys2Proof.Machine
end

