-- ==== Sys2Proof/Machine/Step.lean ====
section
/-! DEFINITION. One step of the machine: the next move is fetched and made. -/

namespace Sys2Proof.Machine

open Sys2Proof

/-- One move of the system. -/
def step (s : State) : Host.Outcome State Fault Refusal :=
  match fetch s with
  | .run i s => exec i s
  | .moved s => .next s
  | .stops f => .fault f
  | .rejects r => .refused r

/-- `s` with the instruction of a table word as the next one `step` fetches. -/
def State.withFetchWord (s : State) (nbits w : Nat) : State := s.presentWord nbits w

end Sys2Proof.Machine
end

