-- ==== Sys2Proof/Machine/Reference.lean ====
section
/-! DEFINITION. LR's own algorithm for TRANSCEIVE (R129), as two loops over a transport; the steps of Transceiver.lean are
the same algorithm cut at its transport calls. Claims compare the two; no step calls this. -/

namespace Sys2Proof.Machine

open Sys2Proof

/-- How a run of the loops ends: with a packet, with ReaderFault, or not yet. -/
inductive LoopEnd where
  | found (p : Packet)
  | failed (c : Cause)
  | exhausted
  deriving DecidableEq, Repr

/-- The inner recovery loop with `n` iterations left (R129); none when a transport call does not return. -/
def innerLoop (lenCheck : Bool) (exp : Nat) : Nat → Transport → Option (LoopEnd × Transport)
  | 0, t => some (.exhausted, t)
  | n + 1, t =>
    match t.write errorSignal with
    | none => none
    | some t =>
      match t.read exp with
      | none => none
      | some (r, t) =>
        match rxClass lenCheck r exp with
        | .fail => innerLoop lenCheck exp n t
        | .err => some (.failed .errorEcho, t)
        | .good p => some (.found p, t)

/-- The outer loop with `n` iterations left (R129). -/
def outerLoop (lenCheck : Bool) (frame : List Byte) (exp : Nat) : Nat → Transport → Option (LoopEnd × Transport)
  | 0, t => some (.failed .retryExhausted, t)
  | n + 1, t =>
    match t.write frame with
    | none => none
    | some t =>
      match t.read exp with
      | none => none
      | some (r, t) =>
        match rxClass lenCheck r exp with
        | .good p => some (.found p, t)
        | .err => outerLoop lenCheck frame exp n t
        | .fail =>
          match innerLoop lenCheck exp Config.innerMax.toNat t with
          | some (.exhausted, t) => outerLoop lenCheck frame exp n t
          | other => other

/-- TRANSCEIVE(id, payload, exp) of R129. -/
def referenceTransceive (lenCheck : Bool) (id : Byte) (pay : List Byte) (exp : BitVec 9) (t : Transport) :
    Option (LoopEnd × Transport) :=
  outerLoop lenCheck (encodeFrame id pay) exp.toNat Config.outerMax.toNat t

end Sys2Proof.Machine
end

