-- ==== Sys2Proof/Safety.lean ====
section
/-! DEFINITION. What claims call a good state: the counter and flag invariants of R17, R132, and the words claims use
about runs. -/

namespace Sys2Proof.Machine

open Sys2Proof

/-- OC and IC by state (R132). -/
abbrev Block.CountersOk (b : Block) : Prop :=
  b.oc ≤ 2 ∧ b.ic ≤ 2 ∧
  (b.st = .idle → b.oc = 0 ∧ b.ic = 0) ∧
  (b.st = .sending → b.oc ≤ 1) ∧
  (b.st ≠ .idle → b.st ≠ .sending → 1 ≤ b.oc) ∧
  (b.st = .reawaiting → 1 ≤ b.ic) ∧
  (b.st = .retrying → b.ic ≤ 1)

/-- RES_VALID and CAUSE by state (R17, R132). -/
abbrev Block.FlagsOk (b : Block) : Prop :=
  (b.resValid = true ↔ b.st = .success) ∧
  (b.cause ≠ .noCause ↔ (b.st = .escalating ∨ b.st = .faulted))

/-- The lists behind CMD_PAY and RES_PAY hold as many entries as their counts say (R12, R13), and the receive buffer and
RES_PAY fit their arrays (R13, R21). -/
abbrev Block.ArraysOk (b : Block) : Prop :=
  b.cmdPay.length = b.cmdLen.toNat ∧ b.resPay.length = b.resCnt.toNat ∧ b.resPay.length ≤ 508 ∧ b.rxBuf.length ≤ 511

/-- In SUCCESS the count is EXP_LEN - 3 (R13, R128), and with LEN_CHECK it is the length byte too (R13, R105). -/
abbrev Block.ResultOk (lenCheck : Bool) (b : Block) : Prop :=
  b.resValid = true →
    b.resCnt.toNat + 3 = b.expLen.toNat ∧ (lenCheck = true → b.resLen.toNat = b.resCnt.toNat) ∧
      b.resId ≠ Config.idRxError

/-- A host procedure waits only while a transaction runs (R228). -/
abbrev State.WaiterOk (s : State) : Prop :=
  s.block.accepts = true → s.host.waiter = .nobody ∨ s.host.waiter = .stuck

/-- A good state. -/
abbrev State.Good (s : State) : Prop :=
  s.cfg.Wf ∧ s.block.CountersOk ∧ s.block.FlagsOk ∧ s.block.ArraysOk ∧ s.block.ResultOk s.cfg.lenCheck ∧ s.WaiterOk

/-- The registers that only START writes (R12). -/
abbrev Block.command (b : Block) : Byte × Byte × List Byte × BitVec 9 := (b.cmdId, b.cmdLen, b.cmdPay, b.expLen)

/-- The registers that only the transition into SUCCESS writes (R13). -/
abbrev Block.results (b : Block) : Byte × Byte × BitVec 9 × List Byte × Byte :=
  (b.resId, b.resLen, b.resCnt, b.resPay, b.resCs)

/-- The byte sequences handed to TxWrite, oldest first (R23b). -/
def Transport.sent (t : Transport) : List (List Byte) :=
  t.history.filterMap fun e => match e with
    | .tx bs => some bs
    | .rx _ _ => none
    | .waiting _ => none

/-- The answers of RxRead, oldest first. -/
def Transport.received (t : Transport) : List (List Byte) :=
  t.history.filterMap fun e => match e with
    | .tx _ => none
    | .rx _ bs => some bs
    | .waiting _ => none

/-- The transport keeps its contract: every call returns (R222, D27). -/
abbrev Transport.KeepsContract (t : Transport) : Prop := t.callsLeft = none

/-- The instruction the transceiver's own move runs in a state of ST, if one is enabled (R130). -/
def St.instr : St → Option Instr
  | .idle => none
  | .sending => some .send
  | .awaiting => some .recv
  | .retrying => some .errsend
  | .reawaiting => some .errrecv
  | .escalating => some .escalate
  | .success => none
  | .faulted => none

end Sys2Proof.Machine
end

