-- ==== Sys2Proof/Certificates/Slice0/Obligations.lean ====
section
/-! DEFINITION. What the provers are asked to show: the spec's rules as statements about the model. Each docstring names
the rule. A statement about a next state writes that state out, so it says what stays as well as what changes. The
hardware has no addressable memory (R40), so no frame speaks of one. -/

open Sys2Proof Sys2Proof.Machine

/-! ### Reading instructions -/

/-- Decoding an encoded well-formed instruction gives it back, every operand at every value. The operand layout is the
model's (notes/assumptions/12.md); OP, ST codes and the frame format are R81, R14, R70, R75 to R78. -/
def Obligations.EncodeThenDecodeIsIdentity : Prop :=
  ∀ (c : Config) (i : Instr), c.Wf → i.wellFormed c = true → decode c (encode c i).1 (encode c i).2 = .ok (i, [])

/-- What decodes is well-formed: the port widths of R82 and the id classes of R75 to R78 hold of it. -/
def Obligations.DecodedInstrIsWellFormed : Prop :=
  ∀ (c : Config) (src : Source) (bs rest : List Byte) (i : Instr),
    decode c src bs = .ok (i, rest) → i.wellFormed c = true

/-- A few words: OP codes (R81), ST codes (R14), the RX_ERROR signal (R80) and an unassigned id (R78) are written out from
the spec. The layout of the operand bytes behind OP in the first word is the model's choice (notes/assumptions/12.md), and
the id of the last word is R75's vector assignment, which the spec gives for examples only. -/
def Obligations.SpecWordsDecode : Prop :=
  decodeExact Config.vector .port [0b00, 0x02, 0x01, 0x03] = .ok (.encode 0x02 [0x03]) ∧
  decodeExact Config.vector .port [0b11] = .ok .reservedOp3 ∧
  decodeExact Config.vector .fsm [0b011] = .ok .errsend ∧
  decodeExact Config.vector .wire [0xFF, 0x00, 0xFF] = .ok (.rxError ⟨[], 0xFF⟩) ∧
  decodeExact Config.vector .wire [0x0E, 0x00, 0x0E] = .ok (.unassignedId 0x0E ⟨[], 0x0E⟩) ∧
  decodeExact Config.vector .wire [0x03, 0x02, 0x00, 0x00, 0x01] = .ok (.ack ⟨[0x00, 0x00], 0x01⟩)

/-- A presented request that decodes is what the step runs, in the state with the request taken
(notes/assumptions/11.md). A host that is stuck makes no request, but a frame on the line is taken all the same
(notes/assumptions/10.md). -/
def Obligations.StepRunsPresentedInstr : Prop :=
  ∀ (s : State) (src : Source) (bs : List Byte) (i : Instr) (rest : List Request),
    (s.host.waiter ≠ .stuck ∨ src = .format ∨ src = .wire) → s.host.pending = .present src bs :: rest → decodeExact s.cfg src bs = .ok i →
      step s = exec i { s with host := { s.host with pending := rest } }

/-- With no request from outside, the step runs the one step that ST enables (R130), and none in IDLE, SUCCESS and
FAULTED (R128). A quiet entry of the request list, and a host's entry while the host is stuck, are taken from the list and
give the same step (notes/assumptions/11.md, notes/assumptions/10.md). -/
def Obligations.StepRunsStepOfSt : Prop :=
  (∀ s : State, s.host.pending = [] →
    (∀ i, s.block.st.instr = some i → step s = exec i s) ∧ (s.block.st.instr = none → step s = .next s)) ∧
  (∀ (s : State) (r : Request) (rest : List Request), s.host.pending = r :: rest →
    (r = .quiet ∨ (s.host.waiter = .stuck ∧ r.fromHost = true)) →
      (∀ i, s.block.st.instr = some i → step s = exec i { s with host := { s.host with pending := rest } }) ∧
      (s.block.st.instr = none → step s = .next { s with host := { s.host with pending := rest } }))

/-! ### The codec -/

/-- R100: CHECKSUM is the exclusive or of all bytes, in any order, and each bit is the parity of its position. -/
def Obligations.ChecksumIsXorOfAllBytes : Prop :=
  (∀ bs : List Byte, checksum bs = bs.foldl (fun a b => a ^^^ b) 0) ∧
  (∀ bs cs : List Byte, bs.Perm cs → checksum bs = checksum cs) ∧
  (∀ (bs : List Byte) (k : Nat), (checksum bs).getLsbD k = decide (bs.countP (fun b => b.getLsbD k) % 2 = 1))

/-- R103 (with R102's layout): the frame's count, its length byte, its zero sum, and that DECODE accepts it under either
setting. -/
def Obligations.EncodedFrameIsSound : Prop :=
  ∀ (id : Byte) (pay : List Byte), pay.length ≤ 255 →
    (encodeFrame id pay).length = 3 + pay.length ∧
    (∀ b, (encodeFrame id pay)[1]? = some b → b.toNat = (encodeFrame id pay).length - 3) ∧
    checksum (encodeFrame id pay) = 0 ∧
    ∀ lenCheck, ∃ p, decodeFrame lenCheck (encodeFrame id pay) = .ok p

/-- R107: round trip, under both settings of LEN_CHECK. -/
def Obligations.CodecRoundTrip : Prop :=
  ∀ (lenCheck : Bool) (id : Byte) (pay : List Byte), pay.length ≤ 255 →
    decodeFrame lenCheck (encodeFrame id pay) =
      .ok ⟨id, BitVec.ofNat 8 pay.length, pay, checksum ([id, BitVec.ofNat 8 pay.length] ++ pay)⟩

/-- R108: every single-bit flip of an accepted frame is rejected, by the checksum test, or by the length test where it is
enabled and the flip is in the length byte; and so is every error pattern that flips an odd number of bits in some bit
position. -/
def Obligations.SingleBitFlipIsDetected : Prop :=
  ∀ (lenCheck : Bool) (f : List Byte) (p : Packet), decodeFrame lenCheck f = .ok p →
    (∀ k j : Nat, k < f.length → j < 8 →
      decodeFrame lenCheck (f.modify k (fun b => b ^^^ BitVec.twoPow 8 j)) =
        .corrupt (if lenCheck = true ∧ k = 1 then .length else .checksum)) ∧
    (∀ (e : List Byte) (j : Nat), e.length = f.length → e.countP (fun b => b.getLsbD j) % 2 = 1 →
      ∃ c, decodeFrame lenCheck (List.zipWith (fun a b => a ^^^ b) f e) = .corrupt c)

/-- R109's law for LEN_CHECK = false: an error pattern with an even number of flips in every bit position is accepted,
and so is any reordering of the bytes. -/
def Obligations.EvenFlipsAreUndetected : Prop :=
  ∀ (f : List Byte) (p : Packet), decodeFrame false f = .ok p →
    (∀ e : List Byte, e.length = f.length → (∀ j, e.countP (fun b => b.getLsbD j) % 2 = 0) →
      ∃ q, decodeFrame false (List.zipWith (fun a b => a ^^^ b) f e) = .ok q) ∧
    (∀ g : List Byte, g.Perm f → ∃ q, decodeFrame false g = .ok q)

/-- R110 and R101's verifier: from three bytes on, the frame passes exactly when the exclusive or of all of it is zero,
which is what the streaming accumulator ends with. -/
def Obligations.AcceptanceIsZeroSum : Prop :=
  ∀ raw : List Byte, 3 ≤ raw.length →
    ((∃ p, decodeFrame false raw = .ok p) ↔ checksum raw = 0) ∧
    ((∃ p, decodeFrame false raw = .ok p) ↔ accumulate 0 raw = 0)

/-- DECODE on the parts of its input, under both settings of LEN_CHECK (R104, R105), without a check of the id (R106). -/
def Obligations.DecodeChecksInOrder : Prop :=
  (∀ (lenCheck : Bool) (raw : List Byte), raw.length < 3 → decodeFrame lenCheck raw = .corrupt .tooShort) ∧
  (∀ (lenCheck : Bool) (id len cs : Byte) (pay : List Byte),
    decodeFrame lenCheck ([id, len] ++ pay ++ [cs]) =
      if lenCheck = true ∧ len.toNat ≠ pay.length then .corrupt .length
      else if id ^^^ len ^^^ pay.foldl (fun a b => a ^^^ b) 0 = cs then .ok ⟨id, len, pay, cs⟩
      else .corrupt .checksum)

/-- R123: RXCLASS. A short read fails whatever its bytes; a packet with id 0xFF is Err, every other one Good. -/
def Obligations.ReadIsClassified : Prop :=
  ∀ (lenCheck : Bool) (r : List Byte) (n : Nat),
    (r.length < n → rxClass lenCheck r n = .fail) ∧
    (n ≤ r.length →
      (∀ c, decodeFrame lenCheck r = .corrupt c → rxClass lenCheck r n = .fail) ∧
      (∀ p, decodeFrame lenCheck r = .ok p → p.id = 0xFF → rxClass lenCheck r n = .err) ∧
      (∀ p, decodeFrame lenCheck r = .ok p → p.id ≠ 0xFF → rxClass lenCheck r n = .good p))

/-! ### The command port -/

/-- ENCODE completes for every id and every payload of 0 to 255 bytes, in every state; the host gets the frame and
nothing else changes (R102, R135). -/
def Obligations.EncodeCompletes : Prop :=
  ∀ (s : State) (id : Byte) (pay : List Byte), pay.length ≤ 255 →
    exec (.encode id pay) s =
      .next { s with host := { s.host with
        reply := .frame ([id, BitVec.ofNat 8 pay.length] ++ pay ++
          [id ^^^ BitVec.ofNat 8 pay.length ^^^ pay.foldl (fun a b => a ^^^ b) 0]) } }

/-- DECODE completes for every input of 0 to 511 bytes, in every state; the host gets the packet or the sub-cause and
nothing else changes (R104, R105, R135). -/
def Obligations.DecodeCompletes : Prop :=
  (∀ (s : State) (raw : List Byte), raw.length < 3 →
    exec (.decode raw) s =
      .next { s with host := { s.host with reply := .error (.corruptedPacket .tooShort) } }) ∧
  (∀ (s : State) (id len cs : Byte) (pay : List Byte), pay.length ≤ 508 →
    exec (.decode ([id, len] ++ pay ++ [cs])) s =
      .next { s with host := { s.host with
        reply :=
          if s.cfg.lenCheck = true ∧ len.toNat ≠ pay.length then .error (.corruptedPacket .length)
          else if id ^^^ len ^^^ pay.foldl (fun a b => a ^^^ b) 0 = cs then .packet ⟨id, len, pay, cs⟩
          else .error (.corruptedPacket .checksum) } })

/-- R121: TRANSCEIVE and START in IDLE, SUCCESS and FAULTED: the operands are latched, counters, RES_VALID and CAUSE
cleared, ST is SENDING; no transport call. -/
def Obligations.StartLatchesTheCommand : Prop :=
  ∀ (s : State) (id : Byte) (pay : List Byte) (exp : BitVec 9), pay.length ≤ 255 →
    (s.block.st = .idle ∨ s.block.st = .success ∨ s.block.st = .faulted) →
      ∀ i, (i = .start id pay exp ∨ i = .transceive id pay exp) →
        ∃ t, exec i s = .next t ∧ t.cfg = s.cfg ∧ t.transport = s.transport ∧ t.host.pending = s.host.pending ∧
          t.block = { s.block with
            cmdId := id, cmdLen := BitVec.ofNat 8 pay.length, cmdPay := pay, expLen := exp
            oc := 0, ic := 0, resValid := false, cause := .noCause, st := .sending }

/-- R135: START while a transaction is running changes no register; the host is told BUSY. ENCODE and DECODE are accepted
in every state and do not touch the machine. -/
def Obligations.BusyStartIsRefused : Prop :=
  (∀ (s : State) (id : Byte) (pay : List Byte) (exp : BitVec 9), pay.length ≤ 255 →
    (s.block.st = .sending ∨ s.block.st = .awaiting ∨ s.block.st = .retrying ∨ s.block.st = .reawaiting ∨
      s.block.st = .escalating) →
      ∀ i, (i = .start id pay exp ∨ i = .transceive id pay exp) →
        exec i s = .next { s with host := { s.host with reply := .busy } }) ∧
  (∀ (s : State) (i : Instr),
    ((∃ id pay, pay.length ≤ 255 ∧ i = .encode id pay) ∨ (∃ raw, raw.length ≤ 511 ∧ i = .decode raw)) →
      ∃ r, exec i s = .next { s with host := { s.host with reply := r } })

/-- R88: OP = 0b11 changes no register and calls no transport primitive; the host is told REFUSED. -/
def Obligations.ReservedOpIsRefused : Prop :=
  ∀ s : State, exec .reservedOp3 s = .next { s with host := { s.host with reply := .refused } }

/-- Operands wider than the port cannot be presented; the model refuses them at the boundary (U17, D10, D11;
notes/assumptions/25.md). -/
def Obligations.TooWideOperandsAreNotExpressible : Prop :=
  (∀ (s : State) (id : Byte) (pay : List Byte) (exp : BitVec 9), 255 < pay.length →
    exec (.encode id pay) s = .refused (.notExpressible "ENCODE") ∧
    exec (.transceive id pay exp) s = .refused (.notExpressible "TRANSCEIVE") ∧
    exec (.start id pay exp) s = .refused (.notExpressible "START")) ∧
  (∀ (s : State) (raw : List Byte), 511 < raw.length →
    exec (.decode raw) s = .refused (.notExpressible "DECODE")) ∧
  (∀ (s : State) (id : Byte) (body : FrameBody) (i : Instr), 255 < body.payload.length →
    (i = .frame id body ∨ i = .firmwareIds id body ∨ i = .unassignedId id body ∨ i = .rxError body ∨
      i = .answerToReset body ∨ i = .getStatus body ∨ i = .setLed body ∨ i = .ack body ∨ i = .beepFrame body ∨
      i = .rfidSendFrame body ∨ i = .rfidSendComplete body) →
      ∃ mnemonic, exec i s = .refused (.notExpressible mnemonic))

/-! ### The steps of the transceiver -/

/-- SEND in SENDING (R122): the frame of the latched command is transmitted, OC counts it, ST is AWAITING. The transport
call must return (R133); the latched payload must have its entries (R12). -/
def Obligations.SendTransmitsTheCommand : Prop :=
  ∀ s : State, s.block.st = .sending → s.block.cmdPay.length = s.block.cmdLen.toNat →
    s.transport.callsLeft ≠ some 0 →
      exec .send s =
        .next { s with
          block := { s.block with oc := s.block.oc + 1, st := .awaiting }
          transport := { s.transport with
            callsLeft := s.transport.callsLeft.map (fun k => k - 1)
            history := s.transport.history ++
              [.tx ([s.block.cmdId, s.block.cmdLen] ++ s.block.cmdPay ++
                [s.block.cmdId ^^^ s.block.cmdLen ^^^ s.block.cmdPay.foldl (fun a b => a ^^^ b) 0])] } }

/-- ERRSEND in RETRYING (R125): FF 00 FF is transmitted, IC counts it, ST is REAWAITING. -/
def Obligations.ErrsendTransmitsTheSignal : Prop :=
  ∀ s : State, s.block.st = .retrying → s.transport.callsLeft ≠ some 0 →
    exec .errsend s =
      .next { s with
        block := { s.block with ic := s.block.ic + 1, st := .reawaiting }
        transport := { s.transport with
          callsLeft := s.transport.callsLeft.map (fun k => k - 1)
          history := s.transport.history ++ [.tx [0xFF, 0x00, 0xFF]] } }

/-- RECV in AWAITING (R124): the read of EXP_LEN bytes returns, and its class decides: SUCCESS with the packet (T3),
SENDING again or RETRY_EXHAUSTED (T4, T5), or the inner loop (T6). -/
def Obligations.RecvClassifiesTheResponse : Prop :=
  ∀ s : State, s.block.st = .awaiting → s.transport.callsLeft ≠ some 0 →
    ∃ r t, s.transport.read s.block.expLen.toNat = some (r, t) ∧
      (∀ p, rxClass s.cfg.lenCheck r s.block.expLen.toNat = .good p →
        ∃ u, exec .recv s = .next u ∧ u.cfg = s.cfg ∧ u.transport = t ∧ u.host.pending = s.host.pending ∧
          u.block = { s.block with
            rxBuf := r, resId := p.id, resLen := p.length, resCnt := BitVec.ofNat 9 p.payload.length
            resPay := p.payload, resCs := p.checksum, resValid := true, st := .success }) ∧
      (rxClass s.cfg.lenCheck r s.block.expLen.toNat = .err → s.block.oc < 2 →
        exec .recv s = .next { s with transport := t, block := { s.block with rxBuf := r, st := .sending } }) ∧
      (rxClass s.cfg.lenCheck r s.block.expLen.toNat = .err → ¬ s.block.oc < 2 →
        exec .recv s = .next { s with
          transport := t, block := { s.block with rxBuf := r, cause := .retryExhausted, st := .escalating } }) ∧
      (rxClass s.cfg.lenCheck r s.block.expLen.toNat = .fail →
        exec .recv s = .next { s with
          transport := t, block := { s.block with rxBuf := r, ic := 0, st := .retrying } })

/-- ERRRECV in REAWAITING (R126): the class is looked at before the counters; Err is ERROR_ECHO whatever they are (T9). -/
def Obligations.ErrrecvClassifiesTheResponse : Prop :=
  ∀ s : State, s.block.st = .reawaiting → s.transport.callsLeft ≠ some 0 →
    ∃ r t, s.transport.read s.block.expLen.toNat = some (r, t) ∧
      (∀ p, rxClass s.cfg.lenCheck r s.block.expLen.toNat = .good p →
        ∃ u, exec .errrecv s = .next u ∧ u.cfg = s.cfg ∧ u.transport = t ∧ u.host.pending = s.host.pending ∧
          u.block = { s.block with
            rxBuf := r, resId := p.id, resLen := p.length, resCnt := BitVec.ofNat 9 p.payload.length
            resPay := p.payload, resCs := p.checksum, resValid := true, st := .success }) ∧
      (rxClass s.cfg.lenCheck r s.block.expLen.toNat = .err →
        exec .errrecv s = .next { s with
          transport := t, block := { s.block with rxBuf := r, cause := .errorEcho, st := .escalating } }) ∧
      (rxClass s.cfg.lenCheck r s.block.expLen.toNat = .fail →
        exec .errrecv s = .next { s with
          transport := t
          block :=
            if s.block.ic < 2 then { s.block with rxBuf := r, st := .retrying }
            else if s.block.oc < 2 then { s.block with rxBuf := r, st := .sending }
            else { s.block with rxBuf := r, cause := .retryExhausted, st := .escalating } })

/-- ESCALATE in ESCALATING (R127): ST is FAULTED, every other register keeps its value, CAUSE among them; no transport
call. -/
def Obligations.EscalateEntersFaulted : Prop :=
  ∀ s : State, s.block.st = .escalating →
    ∃ u, exec .escalate s = .next u ∧ u.cfg = s.cfg ∧ u.transport = s.transport ∧
      u.host.pending = s.host.pending ∧ u.block = { s.block with st := .faulted }

/-- A step that ST does not select does not fire (R130: there is no other transition); nothing changes
(notes/assumptions/16.md). -/
def Obligations.UnselectedStepsDoNotFire : Prop :=
  ∀ (s : State) (i : Instr), (i = .send ∨ i = .recv ∨ i = .errsend ∨ i = .errrecv ∨ i = .escalate) →
    s.block.st.instr ≠ some i → exec i s = .next s

/-- R133: a transport call that does not return leaves the machine where it is; the step is never skipped. -/
def Obligations.HangingTransportHoldsTheMachine : Prop :=
  ∀ s : State, s.transport.callsLeft = some 0 →
    (s.block.st = .sending ∨ s.block.st = .awaiting ∨ s.block.st = .retrying ∨ s.block.st = .reawaiting) →
      s.host.pending = [] → step s = .next s

/-- R198: the steps that fault write CAUSE and ST; OC, IC, RES_VALID, the command and the result registers keep their
values, and the only transport call is the read that was classified. (The internal receive buffer, R21, holds that
read.) -/
def Obligations.FaultEntryWritesCauseAndStOnly : Prop :=
  ∀ (s t : State) (i : Instr), (i = .recv ∨ i = .errrecv ∨ i = .escalate) → exec i s = .next t →
    s.block.st ≠ .escalating ∧ t.block.st = .escalating ∨ s.block.st = .escalating ∧ t.block.st = .faulted →
      t.block = { s.block with st := t.block.st, cause := t.block.cause, rxBuf := t.block.rxBuf } ∧
      (s.block.st = .escalating → t.block.cause = s.block.cause ∧ t.transport = s.transport) ∧
      (s.block.st ≠ .escalating → ∃ r, s.transport.read s.block.expLen.toNat = some (r, t.transport))

/-! ### What the host is told -/

/-- Stages (4) and (5) of R160: the step that enters SUCCESS tells the waiting procedure its result, by the id
comparisons of R162, R163 and R164; a bare TRANSCEIVE gets the packet (R120). That this happens in the same step is the
model's (notes/assumptions/18.md). -/
def Obligations.SuccessTellsTheWaitingProcedure : Prop :=
  ∀ (s u : State) (i : Instr) (p : Packet), (i = .recv ∨ i = .errrecv) → exec i s = .next u →
    s.block.st ≠ .success → u.block.st = .success → u.result = some p →
      (s.host.waiter = .transceive → u.host.reply = .packet p) ∧
      ((s.host.waiter = .setLeds ∨ s.host.waiter = .beep) →
        u.host.reply = if p.id = s.cfg.idAck then .done else .error (.readerFault .unexpectedResponseId)) ∧
      (s.host.waiter = .rfidSend →
        u.host.reply =
          if p.id = s.cfg.idRfidSendComplete then .payload p.payload
          else .error (.readerFault .unexpectedResponseId)) ∧
      (s.host.waiter ≠ .stuck → u.host.waiter = .nobody) ∧
      ((s.host.waiter = .nobody ∨ s.host.waiter = .stuck) → u.host = s.host)

/-- The step that enters FAULTED tells the waiting procedure ReaderFault with the cause that CAUSE holds (R128, R192,
R195). -/
def Obligations.FaultTellsTheWaitingProcedure : Prop :=
  ∀ s : State, s.block.st = .escalating →
    (s.host.waiter = .transceive ∨ s.host.waiter = .setLeds ∨ s.host.waiter = .beep ∨ s.host.waiter = .rfidSend) →
      (s.block.cause = .retryExhausted →
        exec .escalate s = .next { s with
          block := { s.block with st := .faulted }
          host := { s.host with waiter := .nobody, reply := .error (.readerFault .retryExhausted) } }) ∧
      (s.block.cause = .errorEcho →
        exec .escalate s = .next { s with
          block := { s.block with st := .faulted }
          host := { s.host with waiter := .nobody, reply := .error (.readerFault .errorEcho) } })

/-! ### The host layer -/

/-- R161: CHECK_RESET. The test is `= 5`; on 5, five bytes are read and discarded, and the end is DeviceResetDetected or,
when the read comes up short, ReaderFault(RESET_DRAIN_TIMEOUT); on any other count nothing is read and the procedure
proceeds. No register of the block changes and nothing is sent. -/
def Obligations.CheckResetTestsForFive : Prop :=
  ∀ (s : State) (w : Nat) (u : Transport), s.transport.waiting = some (w, u) →
    (w ≠ 5 →
      exec .checkReset s = .next { s with transport := u, host := { s.host with reply := .proceed } } ∧
      u.sent = s.transport.sent ∧ u.received = s.transport.received) ∧
    (w = 5 → ∀ r v, u.read 5 = some (r, v) →
      exec .checkReset s =
        .next { s with
          transport := v
          host := { s.host with
            reply :=
              if r.length < 5 then .error (.readerFault .resetDrainTimeout) else .error .deviceResetDetected } } ∧
      v.sent = s.transport.sent ∧ v.received = s.transport.received ++ [r])

/-- The model's own (notes/assumptions/10.md, after U15): a host procedure whose RxWaiting or RxRead does not return is
stuck, and the block is not touched. -/
def Obligations.HangingTransportHoldsTheHost : Prop :=
  ∀ (s : State) (i : Instr),
    (i = .checkReset ∨ (∃ mask : Byte, mask ≤ 7 ∧ i = .setLeds mask) ∨
      (∃ tones again, tones.length ≤ 8 ∧ i = .beep tones again) ∨ (∃ pay, pay.length ≤ 128 ∧ i = .rfidSend pay)) →
      (s.transport.waiting = none → exec i s = .next { s with host := { s.host with waiter := .stuck } }) ∧
      (∀ u, s.transport.waiting = some (5, u) → u.read 5 = none →
        exec i s = .next { s with transport := u, host := { s.host with waiter := .stuck } })

/-- SET_LEDS (R162) when CHECK_RESET proceeds and no transaction runs: the transaction of ID_SET_LED, [mask], 5 is
started. -/
def Obligations.SetLedsStartsItsTransaction : Prop :=
  ∀ (s : State) (mask : Byte) (w : Nat) (u : Transport), mask ≤ 7 → s.transport.waiting = some (w, u) → w ≠ 5 →
    (s.block.st = .idle ∨ s.block.st = .success ∨ s.block.st = .faulted) →
      exec (.setLeds mask) s =
        .next { s with
          transport := u
          block := { s.block with
            cmdId := s.cfg.idSetLed, cmdLen := 1, cmdPay := [mask], expLen := 5
            oc := 0, ic := 0, resValid := false, cause := .noCause, st := .sending }
          host := { s.host with waiter := .setLeds, reply := .started } }

/-- BEEP (R163) when CHECK_RESET proceeds and no transaction runs: each tone as two bytes of frequency and two of
duration, in list order and in the order TONE_ENDIAN names, then the repeat byte. -/
def Obligations.BeepStartsItsTransaction : Prop :=
  ∀ (s : State) (tones : List Tone) (again : Bool) (w : Nat) (u : Transport), tones.length ≤ 8 →
    s.transport.waiting = some (w, u) → w ≠ 5 →
    (s.block.st = .idle ∨ s.block.st = .success ∨ s.block.st = .faulted) →
      exec (.beep tones again) s =
        .next { s with
          transport := u
          block := { s.block with
            cmdId := s.cfg.idBeep
            cmdLen := BitVec.ofNat 8 (4 * tones.length + 1)
            cmdPay :=
              (tones.map fun t =>
                match s.cfg.toneEndian with
                | .big => [BitVec.ofNat 8 (t.freq.toNat / 256), BitVec.ofNat 8 t.freq.toNat,
                    BitVec.ofNat 8 (t.dur.toNat / 256), BitVec.ofNat 8 t.dur.toNat]
                | .little => [BitVec.ofNat 8 t.freq.toNat, BitVec.ofNat 8 (t.freq.toNat / 256),
                    BitVec.ofNat 8 t.dur.toNat, BitVec.ofNat 8 (t.dur.toNat / 256)]).flatten ++
              [if again then 0x01 else 0x00]
            expLen := 5
            oc := 0, ic := 0, resValid := false, cause := .noCause, st := .sending }
          host := { s.host with waiter := .beep, reply := .started } }

/-- RFID_SEND (R164) when CHECK_RESET proceeds and no transaction runs: EXP_LEN is the payload's length and three
more. -/
def Obligations.RfidSendStartsItsTransaction : Prop :=
  ∀ (s : State) (pay : List Byte) (w : Nat) (u : Transport), pay.length ≤ 128 →
    s.transport.waiting = some (w, u) → w ≠ 5 →
    (s.block.st = .idle ∨ s.block.st = .success ∨ s.block.st = .faulted) →
      ∃ t, exec (.rfidSend pay) s = .next t ∧ t.block.expLen.toNat = pay.length + 3 ∧
        t = { s with
          transport := u
          block := { s.block with
            cmdId := s.cfg.idRfidSend, cmdLen := BitVec.ofNat 8 pay.length, cmdPay := pay
            expLen := BitVec.ofNat 9 (pay.length + 3)
            oc := 0, ic := 0, resValid := false, cause := .noCause, st := .sending }
          host := { s.host with waiter := .rfidSend, reply := .started } }

/-- R165: a failed argument check, 9 tones or more and 129 payload bytes or more, leaves the block and the transport
untouched; the host is told ValidationError. -/
def Obligations.ValidationErrorTouchesNothing : Prop :=
  ∀ (s : State) (i : Instr),
    ((∃ tones again, 8 < tones.length ∧ i = .beep tones again) ∨ (∃ pay, 128 < pay.length ∧ i = .rfidSend pay)) →
      exec i s = .next { s with host := { s.host with reply := .error .validationError } }

/-- The model's own (notes/assumptions/21.md, after D19): SET_LEDS takes 8 bits, and a mask above 0b111 is a
ValidationError that touches nothing. -/
def Obligations.WideMaskIsAValidationError : Prop :=
  ∀ (s : State) (mask : Byte), 7 < mask →
    exec (.setLeds mask) s = .next { s with host := { s.host with reply := .error .validationError } }

/-- R160's order for the three commands with good arguments: when CHECK_RESET finds a reset nothing is sent and no
register of the block changes (R161, R193); when a transaction is running, CHECK_RESET is made all the same and START is
refused BUSY (R135, R223; notes/assumptions/22.md). -/
def Obligations.CommandsStopAtTheFirstFailure : Prop :=
  ∀ (s : State) (i : Instr),
    ((∃ mask : Byte, mask ≤ 7 ∧ i = .setLeds mask) ∨ (∃ tones again, tones.length ≤ 8 ∧ i = .beep tones again) ∨
      (∃ pay, pay.length ≤ 128 ∧ i = .rfidSend pay)) →
    ∀ w u, s.transport.waiting = some (w, u) →
      (∀ r v, w = 5 → u.read 5 = some (r, v) →
        v.sent = s.transport.sent ∧
        exec i s =
          .next { s with
            transport := v
            host := { s.host with
              reply :=
                if r.length < 5 then .error (.readerFault .resetDrainTimeout) else .error .deviceResetDetected } }) ∧
      (w ≠ 5 → s.block.st ≠ .idle → s.block.st ≠ .success → s.block.st ≠ .faulted →
        exec i s = .next { s with transport := u, host := { s.host with reply := .busy } })

/-! ### The wire -/

/-- A frame row puts its bytes, in frame order (R48, R70), at the end of the receive queue (R23a), and changes nothing
else; no id and no checksum is checked there (R71, R78, R106). That a row stands for the frame's arrival is the model's
(notes/assumptions/14.md). -/
def Obligations.FrameRowsFillTheReceiveQueue : Prop :=
  ∀ (s : State) (id : Byte) (body : FrameBody) (i : Instr), body.payload.length ≤ 255 →
    (i = .frame id body ∨ i = .firmwareIds id body ∨ i = .unassignedId id body ∨
      (i = .rxError body ∧ id = 0xFF) ∨ (i = .answerToReset body ∧ id = s.cfg.idAnswerToReset) ∨
      (i = .getStatus body ∧ id = s.cfg.idGetStatus) ∨ (i = .setLed body ∧ id = s.cfg.idSetLed) ∨
      (i = .ack body ∧ id = s.cfg.idAck) ∨ (i = .beepFrame body ∧ id = s.cfg.idBeep) ∨
      (i = .rfidSendFrame body ∧ id = s.cfg.idRfidSend) ∨
      (i = .rfidSendComplete body ∧ id = s.cfg.idRfidSendComplete)) →
      exec i s =
        .next { s with transport := { s.transport with
          rxQueue := s.transport.rxQueue ++
            ([id, BitVec.ofNat 8 body.payload.length] ++ body.payload ++ [body.checksum]) } }

/-- An intact frame that arrives in an empty queue, as long as EXP_LEN, ends the wait of AWAITING: with id 0xFF it is
Err, and with every other id (an unassigned, a firmware or an unexpected one too) it is the transaction's packet (R134,
R78, R77, R76). -/
def Obligations.ArrivedFrameAnswersTheRead : Prop :=
  ∀ (s : State) (id : Byte) (body : FrameBody), s.block.st = .awaiting → s.transport.rxQueue = [] →
    s.transport.callsLeft ≠ some 0 → (∃ rest, s.transport.arrivals = ⟨0, []⟩ :: rest) →
    body.payload.length ≤ 255 → s.block.expLen.toNat = body.payload.length + 3 →
    body.checksum = id ^^^ BitVec.ofNat 8 body.payload.length ^^^ body.payload.foldl (fun a b => a ^^^ b) 0 →
      ∃ t u, exec (.frame id body) s = .next t ∧ exec .recv t = .next u ∧ u.transport.rxQueue = [] ∧
        (id ≠ 0xFF → u.block.st = .success ∧
          u.result = some ⟨id, BitVec.ofNat 8 body.payload.length, body.payload, body.checksum⟩) ∧
        (id = 0xFF → s.block.oc < 2 → u.block.st = .sending) ∧
        (id = 0xFF → ¬ s.block.oc < 2 → u.block.st = .escalating ∧ u.block.cause = .retryExhausted)

/-- RxRead(n) (R43): the answer is the front of what is in the queue, at most n bytes, and those bytes leave the queue;
fewer than n only when the queue has no more; RxRead(0) is [] and takes nothing. Nothing but the read bytes and what the
line loses leaves the queue (R55). -/
def Obligations.ReadTakesTheFrontOfTheQueue : Prop :=
  ∀ (t u : Transport) (n : Nat) (r : List Byte), t.read n = some (r, u) →
    r.length ≤ n ∧ u.history = t.history ++ [.rx n r] ∧
    (n = 0 → r = [] ∧ u.rxQueue = t.rxQueue) ∧
    (0 < n → r ++ u.rxQueue = t.rxQueue.drop t.draw.1.lost ++ t.draw.1.bytes ∧
      (r.length < n → u.rxQueue = []))

/-- R44: the answers of RxRead(n) and RxWaiting() are free: any sequence of at most n bytes, any natural number, from
every queue. -/
def Obligations.TransportAnswersAreFree : Prop :=
  (∀ (t : Transport) (n : Nat) (r : List Byte), t.callsLeft ≠ some 0 → r.length ≤ n →
    ∃ a u, Transport.read n { t with arrivals := a :: t.arrivals } = some (r, u)) ∧
  (∀ (t : Transport) (k : Nat), t.callsLeft ≠ some 0 →
    ∃ a u, Transport.waiting { t with arrivals := a :: t.arrivals } = some (k, u))

/-- RxWaiting() (R45): the number of bytes in the receive queue; none is removed by it (the arrival before it is the
line's, R46). Two calls in a row differ only by what arrives between them. -/
def Obligations.WaitingCountsTheQueue : Prop :=
  ∀ (t u : Transport) (k : Nat), t.waiting = some (k, u) →
    k = u.rxQueue.length ∧ u.rxQueue = t.rxQueue.drop t.draw.1.lost ++ t.draw.1.bytes ∧
    u.history = t.history ++ [.waiting k] ∧ u.sent = t.sent

/-! ### The whole machine -/

/-- Every step keeps a good state: the law of the ids (R75), the counter and flag invariants of R17 and R132,
RES_CNT = EXP_LEN - 3 (R128), with LEN_CHECK RES_LEN = RES_CNT (R13, R105), a result id other than RX_ERROR (R123), array
bounds (R12, R13, R21), and a waiting host only while a transaction runs (R228). That the arrays are lists of exactly their
written entries is the model's choice (notes/assumptions/6.md), and so is that a procedure ends in the step that enters the
terminal state (notes/assumptions/18.md). -/
def Obligations.StepKeepsGoodStates : Prop :=
  ∀ s t : State, s.Good → step s = .next t → t.Good

/-- The state after reset is good. The values of 10_state.md section 7 give the counter and flag clauses; the array clauses
rest on the model's choice of empty data registers (notes/assumptions/5.md), the law of the ids on its choice of parameters
(notes/assumptions/1.md), and the waiter clause on its choice of the host's fields (notes/assumptions/33.md). -/
def Obligations.ResetIsGood : Prop := State.reset.Good

/-- R25: what reset leaves, at power-up and by a reset in any state (R220): no transaction's packet among it
(`State.result`, RES_VALID = 0), and the transport's queue is not touched. That the reset takes effect while a host procedure
hangs too is the model's choice (notes/assumptions/23.md). -/
def Obligations.ResetLeavesIdle : Prop :=
  (State.reset.block.st = .idle ∧ State.reset.block.oc = 0 ∧ State.reset.block.ic = 0 ∧
    State.reset.block.resValid = false ∧ State.reset.block.cause = .noCause ∧ State.reset.status = 0 ∧
    State.reset.result = none) ∧
  (∀ (s : State) (rest : List Request), s.host.pending = .reset :: rest →
    ∃ t, step s = .next t ∧ t.block.st = .idle ∧ t.block.oc = 0 ∧ t.block.ic = 0 ∧ t.block.resValid = false ∧
      t.block.cause = .noCause ∧ t.status = 0 ∧ t.result = none ∧ t.transport = s.transport ∧ t.cfg = s.cfg)

/-- R19: the fields of STATUS, and that reading it changes nothing but what the host is told. -/
def Obligations.StatusIsAViewOfTheFlags : Prop :=
  (∀ b : Block,
    b.status.extractLsb' 0 3 = b.st.code ∧ b.status.extractLsb' 3 2 = b.oc ∧ b.status.extractLsb' 5 2 = b.ic ∧
    b.status.getLsbD 7 = b.resValid ∧ b.status.extractLsb' 8 2 = b.cause.code) ∧
  (∀ (s : State) (rest : List Request), s.host.waiter ≠ .stuck → s.host.pending = .readStatus :: rest →
    step s = .next { s with host := { s.host with pending := rest, reply := .status s.block.status } })

/-- The result registers as the host reads them: the packet when RES_VALID = 1, and a fault once START has invalidated
them, since they then hold no value (R13, R22; notes/assumptions/24.md). -/
def Obligations.ResultIsReadOnlyWhenValid : Prop :=
  ∀ (s : State) (rest : List Request), s.host.waiter ≠ .stuck → s.host.pending = .readResult :: rest →
    (s.block.resValid = true →
      step s = .next { s with host := { s.host with
        pending := rest
        reply := .packet
          ⟨s.block.resId, s.block.resLen, arrayRead s.block.resCnt.toNat s.block.resPay, s.block.resCs⟩ } }) ∧
    (s.block.resValid = false → s.block.st ≠ .idle → step s = .fault .noValue)

/-- The model's own (notes/assumptions/5.md): between reset and the first START the host reads the reset values of the
result registers, and no fault; at power-up and after a reset request they are zero, with no payload. -/
def Obligations.ResultReadAfterResetGivesResetValues : Prop :=
  (∀ (s : State) (rest : List Request), s.host.waiter ≠ .stuck → s.host.pending = .readResult :: rest →
    s.block.st = .idle →
      step s = .next { s with host := { s.host with
        pending := rest
        reply := .packet
          ⟨s.block.resId, s.block.resLen, arrayRead s.block.resCnt.toNat s.block.resPay, s.block.resCs⟩ } }) ∧
  (∀ (s : State) (rest : List Request), s.host.pending = .reset :: .readResult :: rest →
    Sys2Proof.core.run 2 s =
      .next { s with
        block := Block.reset
        host := { waiter := .nobody, reply := .packet ⟨0, 0, [], 0⟩, pending := rest } })

/-- No step writes the parameters (R1: constants of the hardware, not registers), and no step takes back what crossed the
transport: the history only grows (R23b, R42). That RxRead and RxWaiting enter the history is the model's choice
(notes/assumptions/30.md), and so is the bound of two events: CHECK_RESET's two calls are made in one step, where
00_scope.md section 5.4 gives a step at most one transport answer (notes/assumptions/20.md). -/
def Obligations.ConfigIsFixedAndHistoryGrows : Prop :=
  ∀ s t : State, step s = .next t →
    t.cfg = s.cfg ∧ ∃ events, t.transport.history = s.transport.history ++ events ∧ events.length ≤ 2

/-- R12, R54: the command registers are written by START alone, from a state that accepts it; reset clears them by the
model's choice (notes/assumptions/5.md). -/
def Obligations.CommandRegistersAreWrittenByStartOnly : Prop :=
  ∀ s t : State, step s = .next t →
    t.block.command = s.block.command ∨
    (s.block.accepts = true ∧ t.block.st = .sending ∧ t.block.oc = 0) ∨
    (∃ rest, s.host.pending = .reset :: rest ∧ t.block = Block.reset)

/-- R13: the result registers are written by the transition into SUCCESS alone, which sets RES_VALID; reset clears them
by the model's choice (notes/assumptions/5.md). -/
def Obligations.ResultRegistersAreWrittenBySuccessOnly : Prop :=
  ∀ s t : State, step s = .next t →
    t.block.results = s.block.results ∨
    ((s.block.st = .awaiting ∨ s.block.st = .reawaiting) ∧ t.block.st = .success ∧ t.block.resValid = true) ∨
    (∃ rest, s.host.pending = .reset :: rest ∧ t.block = Block.reset)

/-- R130: the transitions of ST are those of T1 to T13 and no other; only reset leads to IDLE. -/
def Obligations.TransitionsOfStAreTheTable : Prop :=
  ∀ s t : State, step s = .next t → s.block.st ≠ t.block.st →
    (∃ rest, s.host.pending = .reset :: rest ∧ t.block.st = .idle) ∨
    ((s.block.st = .idle ∨ s.block.st = .success ∨ s.block.st = .faulted) ∧ t.block.st = .sending ∧
      t.block.oc = 0 ∧ t.block.ic = 0) ∨
    (s.block.st = .sending ∧ t.block.st = .awaiting ∧ t.block.oc = s.block.oc + 1) ∨
    (s.block.st = .awaiting ∧
      (t.block.st = .success ∨ (t.block.st = .sending ∧ s.block.oc < 2) ∨
        (t.block.st = .escalating ∧ ¬ s.block.oc < 2 ∧ t.block.cause = .retryExhausted) ∨
        (t.block.st = .retrying ∧ t.block.ic = 0))) ∨
    (s.block.st = .retrying ∧ t.block.st = .reawaiting ∧ t.block.ic = s.block.ic + 1) ∨
    (s.block.st = .reawaiting ∧
      (t.block.st = .success ∨ (t.block.st = .escalating ∧ t.block.cause = .errorEcho) ∨
        (t.block.st = .retrying ∧ s.block.ic < 2) ∨
        (t.block.st = .sending ∧ ¬ s.block.ic < 2 ∧ s.block.oc < 2) ∨
        (t.block.st = .escalating ∧ ¬ s.block.ic < 2 ∧ ¬ s.block.oc < 2 ∧ t.block.cause = .retryExhausted))) ∨
    (s.block.st = .escalating ∧ t.block.st = .faulted)

/-- R75, D6: neither the codec nor the transceiver depends on the values of the OPEN ids or on TONE_ENDIAN: two states that
differ only in them take the same step of the block and the transport, and the host is told the same; what a command is told
when RECV or ERRRECV enters SUCCESS is the host layer's comparison (R162 to R164), and is left out. -/
def Obligations.OpenIdsDoNotReachTheBlock : Prop :=
  ∀ (s : State) (c : Config) (i : Instr), c.lenCheck = s.cfg.lenCheck →
    ((∃ id pay exp, i = .start id pay exp ∨ i = .transceive id pay exp) ∨ i = .send ∨ i = .recv ∨ i = .errsend ∨
      i = .errrecv ∨ i = .escalate ∨ (∃ id pay, i = .encode id pay) ∨ (∃ raw, i = .decode raw)) →
      ∀ t, exec i s = .next t →
        ∃ u, exec i { s with cfg := c } = .next u ∧ u.block = t.block ∧ u.transport = t.transport ∧
          (i ≠ .recv → i ≠ .errrecv → u.host = t.host)

/-- After R131(a, b, f): with a transport that keeps its contract and nothing from outside, TRANSCEIVE is over after
START and at most 13 steps more; every read follows one write of its own, there are 1 to 6 of each, the first write is
the original packet and every other one is the original or the RX_ERROR signal. That TRANSCEIVE ends its own step at START
is the model's (notes/assumptions/19.md). -/
def Obligations.TransceiveEndsWithinItsBounds : Prop :=
  ∀ (s : State) (id : Byte) (pay : List Byte) (exp : BitVec 9), pay.length ≤ 255 → s.block.accepts = true →
    s.host.pending = [] → s.transport.KeepsContract →
      ∃ s1 t, exec (.transceive id pay exp) s = .next s1 ∧ Sys2Proof.core.run 13 s1 = .next t ∧
        t.block.terminal = true ∧
        ∃ (r : List Byte) (pairs : List (List Byte × List Byte)),
          t.transport.history = s.transport.history ++
            ([.tx (encodeFrame id pay), .rx exp.toNat r] ++
              pairs.flatMap (fun p => [.tx p.1, .rx exp.toNat p.2])) ∧
          pairs.length ≤ 5 ∧
          (∀ p ∈ pairs, p.1 = encodeFrame id pay ∨ p.1 = [0xFF, 0x00, 0xFF])

/-- R129, with R123's classes: the machine's steps are LR's two loops cut at the transport calls. From the same transport, START and 13 steps
end with the same transport calls, answers and queue, and with the same packet or fault, as the reference algorithm. The 13
steps after TRANSCEIVE's own are the model's (notes/assumptions/19.md), and so are host.waiter and host.reply
(notes/assumptions/18.md). -/
def Obligations.StepsRefineTheReferenceAlgorithm : Prop :=
  ∀ (s : State) (id : Byte) (pay : List Byte) (exp : BitVec 9), pay.length ≤ 255 → s.block.accepts = true →
    s.host.pending = [] → s.transport.KeepsContract →
      ∃ s1 t out, exec (.transceive id pay exp) s = .next s1 ∧ Sys2Proof.core.run 13 s1 = .next t ∧
        referenceTransceive s.cfg.lenCheck id pay exp s.transport = some (out, t.transport) ∧
        t.host.waiter = .nobody ∧
        (∀ p, out = .found p → t.block.st = .success ∧ t.result = some p ∧ t.host.reply = .packet p) ∧
        (∀ c, out = .failed c → t.block.st = .faulted ∧ t.block.cause = c ∧
          ∃ k, c.toReader = some k ∧ t.host.reply = .error (.readerFault k)) ∧
        out ≠ .exhausted

/-- R120's corner case, R131(d): EXP_LEN below 3 makes every read fail, whatever the line delivers, so the transaction
ends in FAULTED with RETRY_EXHAUSTED after exactly six writes, in this order, and six reads. The 13 steps after
TRANSCEIVE's own, which ends at START, are the model's (notes/assumptions/19.md). -/
def Obligations.TooShortExpectationExhaustsTheBudget : Prop :=
  ∀ (s : State) (id : Byte) (pay : List Byte) (exp : BitVec 9), pay.length ≤ 255 → exp.toNat < 3 →
    s.block.accepts = true → s.host.pending = [] → s.transport.KeepsContract →
      ∃ s1 t, exec (.transceive id pay exp) s = .next s1 ∧ Sys2Proof.core.run 13 s1 = .next t ∧
        t.block.st = .faulted ∧ t.block.cause = .retryExhausted ∧ t.block.oc = 2 ∧ t.block.ic = 2 ∧
        t.transport.sent = s.transport.sent ++
          [encodeFrame id pay, [0xFF, 0x00, 0xFF], [0xFF, 0x00, 0xFF],
            encodeFrame id pay, [0xFF, 0x00, 0xFF], [0xFF, 0x00, 0xFF]] ∧
        t.transport.received.length = s.transport.received.length + 6
end

