-- ==== Sys2Proof/Laws/Codec.lean ====
section
/-! SUPPORT. The laws of the exclusive or of bytes (R111) that claims about the codec rest on. -/

namespace Sys2Proof.Machine

open Sys2Proof

@[simp] theorem checksum_nil : checksum [] = 0 := rfl

@[simp] theorem checksum_cons (b : Byte) (bs : List Byte) : checksum (b :: bs) = b ^^^ checksum bs := rfl

theorem checksum_append (as bs : List Byte) : checksum (as ++ bs) = checksum as ^^^ checksum bs := by
  induction as with
  | nil => simp
  | cons a as ih => simp [ih, BitVec.xor_assoc]

/-- The accumulator is the start value and the exclusive or of what it has seen (R101). -/
theorem accumulate_eq (acc : Byte) (bs : List Byte) : accumulate acc bs = acc ^^^ checksum bs := by
  induction bs generalizing acc with
  | nil => simp [accumulate]
  | cons b bs ih => simp [accumulate, ih, BitVec.xor_assoc]

theorem foldl_xor_eq (acc : Byte) (bs : List Byte) :
    bs.foldl (fun a b => a ^^^ b) acc = acc ^^^ checksum bs := by
  induction bs generalizing acc with
  | nil => simp
  | cons b bs ih => simp [ih, BitVec.xor_assoc]

/-- `a = b` exactly when `a ^ b = 0` (R110). -/
theorem xor_eq_zero_iff (a b : Byte) : a ^^^ b = 0 ↔ a = b := by
  constructor
  · intro h
    have := congrArg (· ^^^ b) h
    simpa [BitVec.xor_assoc] using this
  · rintro rfl
    exact BitVec.xor_self

theorem lenByte_toNat {pay : List Byte} (h : pay.length ≤ 255) : (lenByte pay).toNat = pay.length := by
  simp [lenByte]
  omega

/-- ENCODE's frame, its parts side by side (R102). -/
theorem encodeFrame_eq (id : Byte) (pay : List Byte) :
    encodeFrame id pay = [id, lenByte pay] ++ pay ++ [id ^^^ lenByte pay ^^^ checksum pay] := by
  simp [encodeFrame, BitVec.xor_assoc]

theorem encodeFrame_length (id : Byte) (pay : List Byte) : (encodeFrame id pay).length = pay.length + 3 := by
  simp [encodeFrame_eq]

/-- Three bytes or more, split where DECODE splits them (R104). -/
theorem exists_parts {raw : List Byte} (h : 3 ≤ raw.length) :
    ∃ (id len cs : Byte) (pay : List Byte), raw = [id, len] ++ pay ++ [cs] := by
  match raw, h with
  | id :: len :: b :: rest, _ =>
    exact ⟨id, len, (b :: rest).getLast (List.cons_ne_nil b rest), (b :: rest).dropLast, by
      simpa using (List.dropLast_append_getLast (List.cons_ne_nil b rest)).symm⟩

/-- DECODE on split input. -/
theorem decodeFrame_parts (lenCheck : Bool) (id len cs : Byte) (pay : List Byte) :
    decodeFrame lenCheck ([id, len] ++ pay ++ [cs]) = decodeParts lenCheck ⟨id, len, pay, cs⟩ := by
  cases pay with
  | nil => rfl
  | cons b rest =>
    have h : [id, len] ++ b :: rest ++ [cs] = id :: len :: b :: (rest ++ [cs]) := rfl
    have h1 : (b :: (rest ++ [cs])).dropLast = b :: rest := by
      rw [← List.cons_append, List.dropLast_concat]
    have h2 : (b :: (rest ++ [cs])).getLast (List.cons_ne_nil _ _) = cs := by simp
    rw [h, decodeFrame, h1, h2]

theorem decodeFrame_short (lenCheck : Bool) {raw : List Byte} (h : raw.length < 3) :
    decodeFrame lenCheck raw = .corrupt .tooShort := by
  match raw, h with
  | [], _ => rfl
  | [_], _ => rfl
  | [_, _], _ => rfl

/-- What an accepted input is: its parts, its zero sum, and with LEN_CHECK its length byte. -/
theorem decodeFrame_ok {lenCheck : Bool} {raw : List Byte} {p : Packet} (h : decodeFrame lenCheck raw = .ok p) :
    raw = [p.id, p.length] ++ p.payload ++ [p.checksum] ∧ p.id ^^^ p.length ^^^ checksum p.payload = p.checksum ∧
      (lenCheck = true → p.length.toNat = p.payload.length) := by
  by_cases hl : raw.length < 3
  · simp [decodeFrame_short lenCheck hl] at h
  · obtain ⟨id, len, cs, pay, rfl⟩ := exists_parts (Nat.le_of_not_lt hl)
    rw [decodeFrame_parts, decodeParts] at h
    split at h
    · cases h
    · split at h
      · cases h
      · cases h
        rename_i h1 h2
        exact ⟨rfl, not_not.mp h2, fun hc => not_not.mp fun hn => h1 ⟨hc, hn⟩⟩

/-- A Good answer is the packet that decoding the whole read gave, and its id is not RX_ERROR (R123). -/
theorem rxClass_good {lenCheck : Bool} {r : List Byte} {n : Nat} {p : Packet} (h : rxClass lenCheck r n = .good p) :
    n ≤ r.length ∧ decodeFrame lenCheck r = .ok p ∧ p.id ≠ Config.idRxError := by
  unfold rxClass at h
  split at h
  · cases h
  · split at h
    · cases h
    · split at h
      · cases h
      · cases h
        exact ⟨by omega, by assumption, by assumption⟩

end Sys2Proof.Machine
end

