-- ==== Sys2Proof/Laws/Decode.lean ====
section
/-! SUPPORT. What reads back what the encoder writes, field by field. -/

namespace Sys2Proof

theorem takeBytes_append {n : Nat} (xs rest : List Byte) (h : xs.length = n) :
    takeBytes n (xs ++ rest) = .ok (xs, rest) := by
  subst h
  simp [takeBytes]

theorem readPay_countByte (pay rest : List Byte) (h : pay.length ≤ 255) :
    readPay (countByte pay :: (pay ++ rest)) = .ok (pay, rest) := by
  have : (countByte pay).toNat = pay.length := by
    simp [countByte]; omega
  simp only [readPay, this]
  exact takeBytes_append pay rest rfl

theorem readIdPay_idPayBytes (id : Byte) (pay rest : List Byte) (h : pay.length ≤ 255) :
    readIdPay (idPayBytes id pay ++ rest) = .ok (id, pay, rest) := by
  have := readPay_countByte pay rest h
  simp [idPayBytes, readIdPay, this]

theorem read9_twoBytes (n : Nat) (rest : List Byte) (h : n < 512) :
    read9 (twoBytes n ++ rest) = .ok (BitVec.ofNat 9 n, rest) := by
  have h1 : (BitVec.ofNat 8 (n / 256) : Byte) ≤ 1 := by
    rw [BitVec.le_def]; simp; omega
  have h2 : (BitVec.ofNat 8 n : Byte).toNat + 256 * (BitVec.ofNat 8 (n / 256) : Byte).toNat = n := by
    simp; omega
  simp only [twoBytes, List.cons_append, List.nil_append, read9, if_pos h1, h2]

theorem read16_twoBytes (n : Nat) (rest : List Byte) (h : n < 65536) :
    read16 (twoBytes n ++ rest) = .ok (BitVec.ofNat 16 n, rest) := by
  have : (BitVec.ofNat 8 (n / 256) ++ BitVec.ofNat 8 n : BitVec 16) = BitVec.ofNat 16 n := by
    apply BitVec.eq_of_toNat_eq
    simp only [BitVec.toNat_append, BitVec.toNat_ofNat]
    rw [← Nat.shiftLeft_add_eq_or_of_lt (by omega), Nat.shiftLeft_eq]
    omega
  simp only [twoBytes, List.cons_append, List.nil_append, read16, this]

theorem readIdPayExp_bytes (id : Byte) (pay : List Byte) (exp : BitVec 9) (rest : List Byte)
    (h : pay.length ≤ 255) :
    readIdPayExp (idPayBytes id pay ++ twoBytes exp.toNat ++ rest) = .ok (id, pay, exp, rest) := by
  have h9 := read9_twoBytes exp.toNat rest exp.isLt
  rw [List.append_assoc, readIdPayExp, readIdPay_idPayBytes id pay _ h]
  simp [h9]

theorem readTones_bytes (tones : List Tone) (rest : List Byte) :
    readTones tones.length (tones.flatMap toneArgBytes ++ rest) = .ok (tones, rest) := by
  induction tones with
  | nil => rfl
  | cons t tones ih =>
    have e : (t :: tones).flatMap toneArgBytes ++ rest =
        twoBytes t.freq.toNat ++ (twoBytes t.dur.toNat ++ (tones.flatMap toneArgBytes ++ rest)) := by
      simp [toneArgBytes]
    rw [e, List.length_cons, readTones, read16_twoBytes _ _ t.freq.isLt]
    dsimp only
    rw [read16_twoBytes _ _ t.dur.isLt]
    dsimp only
    rw [ih]
    simp

theorem readFrame_frameBytes (id : Byte) (body : FrameBody) (rest : List Byte) (h : body.payload.length ≤ 255) :
    readFrame (frameBytes id body ++ rest) = .ok (id, body, rest) := by
  have := readPay_countByte body.payload (body.checksum :: rest) h
  simp [frameBytes, idPayBytes, readFrame, this]

/-- A frame read in the id space: its row by its id. -/
theorem decode_wire (c : Config) (id : Byte) (body : FrameBody) (h : body.payload.length ≤ 255) :
    decode c .wire (frameBytes id body) = .ok (frameRow c id body, []) := by
  have := readFrame_frameBytes id body [] h
  rw [List.append_nil] at this
  simp [decode, this]

/-- The ids of a lawful configuration, one by one (R75). -/
theorem Config.Wf.facts {c : Config} (h : c.Wf) :
    (∀ b ∈ c.ids, b ≠ Config.idRxError ∧ ¬ Config.maxEnumId < b) ∧ c.ids.Nodup := by
  refine ⟨fun b hb => ?_, h.2⟩
  have := h.1 b hb
  constructor
  · rintro rfl
    exact absurd this (by decide)
  · rw [BitVec.not_lt]
    exact this

end Sys2Proof
end

