-- ==== Sys2Proof/Laws/State.lean ====
section
/-! SUPPORT. One lemma per field per update of the state: what each named update writes, and that it leaves the rest. -/

namespace Sys2Proof.Machine

open Sys2Proof

/-! ### Block.start (R121) -/

@[simp] theorem Block.start_cmdId (id : Byte) (pay : List Byte) (exp : BitVec 9) (b : Block) : (b.start id pay exp).cmdId = id := rfl
@[simp] theorem Block.start_cmdLen (id : Byte) (pay : List Byte) (exp : BitVec 9) (b : Block) : (b.start id pay exp).cmdLen = lenByte pay := rfl
@[simp] theorem Block.start_cmdPay (id : Byte) (pay : List Byte) (exp : BitVec 9) (b : Block) : (b.start id pay exp).cmdPay = pay := rfl
@[simp] theorem Block.start_expLen (id : Byte) (pay : List Byte) (exp : BitVec 9) (b : Block) : (b.start id pay exp).expLen = exp := rfl
@[simp] theorem Block.start_resId (id : Byte) (pay : List Byte) (exp : BitVec 9) (b : Block) : (b.start id pay exp).resId = b.resId := rfl
@[simp] theorem Block.start_resLen (id : Byte) (pay : List Byte) (exp : BitVec 9) (b : Block) : (b.start id pay exp).resLen = b.resLen := rfl
@[simp] theorem Block.start_resCnt (id : Byte) (pay : List Byte) (exp : BitVec 9) (b : Block) : (b.start id pay exp).resCnt = b.resCnt := rfl
@[simp] theorem Block.start_resPay (id : Byte) (pay : List Byte) (exp : BitVec 9) (b : Block) : (b.start id pay exp).resPay = b.resPay := rfl
@[simp] theorem Block.start_resCs (id : Byte) (pay : List Byte) (exp : BitVec 9) (b : Block) : (b.start id pay exp).resCs = b.resCs := rfl
@[simp] theorem Block.start_st (id : Byte) (pay : List Byte) (exp : BitVec 9) (b : Block) : (b.start id pay exp).st = .sending := rfl
@[simp] theorem Block.start_oc (id : Byte) (pay : List Byte) (exp : BitVec 9) (b : Block) : (b.start id pay exp).oc = 0 := rfl
@[simp] theorem Block.start_ic (id : Byte) (pay : List Byte) (exp : BitVec 9) (b : Block) : (b.start id pay exp).ic = 0 := rfl
@[simp] theorem Block.start_resValid (id : Byte) (pay : List Byte) (exp : BitVec 9) (b : Block) : (b.start id pay exp).resValid = false := rfl
@[simp] theorem Block.start_cause (id : Byte) (pay : List Byte) (exp : BitVec 9) (b : Block) : (b.start id pay exp).cause = .noCause := rfl
@[simp] theorem Block.start_rxBuf (id : Byte) (pay : List Byte) (exp : BitVec 9) (b : Block) : (b.start id pay exp).rxBuf = b.rxBuf := rfl

/-! ### Block.succeed (R124, R126) -/

@[simp] theorem Block.succeed_cmdId (p : Packet) (b : Block) : (b.succeed p).cmdId = b.cmdId := rfl
@[simp] theorem Block.succeed_cmdLen (p : Packet) (b : Block) : (b.succeed p).cmdLen = b.cmdLen := rfl
@[simp] theorem Block.succeed_cmdPay (p : Packet) (b : Block) : (b.succeed p).cmdPay = b.cmdPay := rfl
@[simp] theorem Block.succeed_expLen (p : Packet) (b : Block) : (b.succeed p).expLen = b.expLen := rfl
@[simp] theorem Block.succeed_resId (p : Packet) (b : Block) : (b.succeed p).resId = p.id := rfl
@[simp] theorem Block.succeed_resLen (p : Packet) (b : Block) : (b.succeed p).resLen = p.length := rfl
@[simp] theorem Block.succeed_resCnt (p : Packet) (b : Block) : (b.succeed p).resCnt = BitVec.ofNat 9 p.payload.length := rfl
@[simp] theorem Block.succeed_resPay (p : Packet) (b : Block) : (b.succeed p).resPay = p.payload := rfl
@[simp] theorem Block.succeed_resCs (p : Packet) (b : Block) : (b.succeed p).resCs = p.checksum := rfl
@[simp] theorem Block.succeed_st (p : Packet) (b : Block) : (b.succeed p).st = .success := rfl
@[simp] theorem Block.succeed_oc (p : Packet) (b : Block) : (b.succeed p).oc = b.oc := rfl
@[simp] theorem Block.succeed_ic (p : Packet) (b : Block) : (b.succeed p).ic = b.ic := rfl
@[simp] theorem Block.succeed_resValid (p : Packet) (b : Block) : (b.succeed p).resValid = true := rfl
@[simp] theorem Block.succeed_cause (p : Packet) (b : Block) : (b.succeed p).cause = b.cause := rfl
@[simp] theorem Block.succeed_rxBuf (p : Packet) (b : Block) : (b.succeed p).rxBuf = b.rxBuf := rfl

/-! ### Block.escalateWith (R198) -/

@[simp] theorem Block.escalateWith_cmdId (c : Cause) (b : Block) : (b.escalateWith c).cmdId = b.cmdId := rfl
@[simp] theorem Block.escalateWith_cmdLen (c : Cause) (b : Block) : (b.escalateWith c).cmdLen = b.cmdLen := rfl
@[simp] theorem Block.escalateWith_cmdPay (c : Cause) (b : Block) : (b.escalateWith c).cmdPay = b.cmdPay := rfl
@[simp] theorem Block.escalateWith_expLen (c : Cause) (b : Block) : (b.escalateWith c).expLen = b.expLen := rfl
@[simp] theorem Block.escalateWith_resId (c : Cause) (b : Block) : (b.escalateWith c).resId = b.resId := rfl
@[simp] theorem Block.escalateWith_resLen (c : Cause) (b : Block) : (b.escalateWith c).resLen = b.resLen := rfl
@[simp] theorem Block.escalateWith_resCnt (c : Cause) (b : Block) : (b.escalateWith c).resCnt = b.resCnt := rfl
@[simp] theorem Block.escalateWith_resPay (c : Cause) (b : Block) : (b.escalateWith c).resPay = b.resPay := rfl
@[simp] theorem Block.escalateWith_resCs (c : Cause) (b : Block) : (b.escalateWith c).resCs = b.resCs := rfl
@[simp] theorem Block.escalateWith_st (c : Cause) (b : Block) : (b.escalateWith c).st = .escalating := rfl
@[simp] theorem Block.escalateWith_oc (c : Cause) (b : Block) : (b.escalateWith c).oc = b.oc := rfl
@[simp] theorem Block.escalateWith_ic (c : Cause) (b : Block) : (b.escalateWith c).ic = b.ic := rfl
@[simp] theorem Block.escalateWith_resValid (c : Cause) (b : Block) : (b.escalateWith c).resValid = b.resValid := rfl
@[simp] theorem Block.escalateWith_cause (c : Cause) (b : Block) : (b.escalateWith c).cause = c := rfl
@[simp] theorem Block.escalateWith_rxBuf (c : Cause) (b : Block) : (b.escalateWith c).rxBuf = b.rxBuf := rfl

/-! ### Block.goto (ST) -/

@[simp] theorem Block.goto_cmdId (st : St) (b : Block) : (b.goto st).cmdId = b.cmdId := rfl
@[simp] theorem Block.goto_cmdLen (st : St) (b : Block) : (b.goto st).cmdLen = b.cmdLen := rfl
@[simp] theorem Block.goto_cmdPay (st : St) (b : Block) : (b.goto st).cmdPay = b.cmdPay := rfl
@[simp] theorem Block.goto_expLen (st : St) (b : Block) : (b.goto st).expLen = b.expLen := rfl
@[simp] theorem Block.goto_resId (st : St) (b : Block) : (b.goto st).resId = b.resId := rfl
@[simp] theorem Block.goto_resLen (st : St) (b : Block) : (b.goto st).resLen = b.resLen := rfl
@[simp] theorem Block.goto_resCnt (st : St) (b : Block) : (b.goto st).resCnt = b.resCnt := rfl
@[simp] theorem Block.goto_resPay (st : St) (b : Block) : (b.goto st).resPay = b.resPay := rfl
@[simp] theorem Block.goto_resCs (st : St) (b : Block) : (b.goto st).resCs = b.resCs := rfl
@[simp] theorem Block.goto_st (st : St) (b : Block) : (b.goto st).st = st := rfl
@[simp] theorem Block.goto_oc (st : St) (b : Block) : (b.goto st).oc = b.oc := rfl
@[simp] theorem Block.goto_ic (st : St) (b : Block) : (b.goto st).ic = b.ic := rfl
@[simp] theorem Block.goto_resValid (st : St) (b : Block) : (b.goto st).resValid = b.resValid := rfl
@[simp] theorem Block.goto_cause (st : St) (b : Block) : (b.goto st).cause = b.cause := rfl
@[simp] theorem Block.goto_rxBuf (st : St) (b : Block) : (b.goto st).rxBuf = b.rxBuf := rfl

/-! ### Block.sent (R122) -/

@[simp] theorem Block.sent_cmdId (b : Block) : (b.sent).cmdId = b.cmdId := rfl
@[simp] theorem Block.sent_cmdLen (b : Block) : (b.sent).cmdLen = b.cmdLen := rfl
@[simp] theorem Block.sent_cmdPay (b : Block) : (b.sent).cmdPay = b.cmdPay := rfl
@[simp] theorem Block.sent_expLen (b : Block) : (b.sent).expLen = b.expLen := rfl
@[simp] theorem Block.sent_resId (b : Block) : (b.sent).resId = b.resId := rfl
@[simp] theorem Block.sent_resLen (b : Block) : (b.sent).resLen = b.resLen := rfl
@[simp] theorem Block.sent_resCnt (b : Block) : (b.sent).resCnt = b.resCnt := rfl
@[simp] theorem Block.sent_resPay (b : Block) : (b.sent).resPay = b.resPay := rfl
@[simp] theorem Block.sent_resCs (b : Block) : (b.sent).resCs = b.resCs := rfl
@[simp] theorem Block.sent_st (b : Block) : (b.sent).st = .awaiting := rfl
@[simp] theorem Block.sent_oc (b : Block) : (b.sent).oc = b.oc + 1 := rfl
@[simp] theorem Block.sent_ic (b : Block) : (b.sent).ic = b.ic := rfl
@[simp] theorem Block.sent_resValid (b : Block) : (b.sent).resValid = b.resValid := rfl
@[simp] theorem Block.sent_cause (b : Block) : (b.sent).cause = b.cause := rfl
@[simp] theorem Block.sent_rxBuf (b : Block) : (b.sent).rxBuf = b.rxBuf := rfl

/-! ### Block.errSent (R125) -/

@[simp] theorem Block.errSent_cmdId (b : Block) : (b.errSent).cmdId = b.cmdId := rfl
@[simp] theorem Block.errSent_cmdLen (b : Block) : (b.errSent).cmdLen = b.cmdLen := rfl
@[simp] theorem Block.errSent_cmdPay (b : Block) : (b.errSent).cmdPay = b.cmdPay := rfl
@[simp] theorem Block.errSent_expLen (b : Block) : (b.errSent).expLen = b.expLen := rfl
@[simp] theorem Block.errSent_resId (b : Block) : (b.errSent).resId = b.resId := rfl
@[simp] theorem Block.errSent_resLen (b : Block) : (b.errSent).resLen = b.resLen := rfl
@[simp] theorem Block.errSent_resCnt (b : Block) : (b.errSent).resCnt = b.resCnt := rfl
@[simp] theorem Block.errSent_resPay (b : Block) : (b.errSent).resPay = b.resPay := rfl
@[simp] theorem Block.errSent_resCs (b : Block) : (b.errSent).resCs = b.resCs := rfl
@[simp] theorem Block.errSent_st (b : Block) : (b.errSent).st = .reawaiting := rfl
@[simp] theorem Block.errSent_oc (b : Block) : (b.errSent).oc = b.oc := rfl
@[simp] theorem Block.errSent_ic (b : Block) : (b.errSent).ic = b.ic + 1 := rfl
@[simp] theorem Block.errSent_resValid (b : Block) : (b.errSent).resValid = b.resValid := rfl
@[simp] theorem Block.errSent_cause (b : Block) : (b.errSent).cause = b.cause := rfl
@[simp] theorem Block.errSent_rxBuf (b : Block) : (b.errSent).rxBuf = b.rxBuf := rfl

/-! ### Block.enterInner (R124, T6) -/

@[simp] theorem Block.enterInner_cmdId (b : Block) : (b.enterInner).cmdId = b.cmdId := rfl
@[simp] theorem Block.enterInner_cmdLen (b : Block) : (b.enterInner).cmdLen = b.cmdLen := rfl
@[simp] theorem Block.enterInner_cmdPay (b : Block) : (b.enterInner).cmdPay = b.cmdPay := rfl
@[simp] theorem Block.enterInner_expLen (b : Block) : (b.enterInner).expLen = b.expLen := rfl
@[simp] theorem Block.enterInner_resId (b : Block) : (b.enterInner).resId = b.resId := rfl
@[simp] theorem Block.enterInner_resLen (b : Block) : (b.enterInner).resLen = b.resLen := rfl
@[simp] theorem Block.enterInner_resCnt (b : Block) : (b.enterInner).resCnt = b.resCnt := rfl
@[simp] theorem Block.enterInner_resPay (b : Block) : (b.enterInner).resPay = b.resPay := rfl
@[simp] theorem Block.enterInner_resCs (b : Block) : (b.enterInner).resCs = b.resCs := rfl
@[simp] theorem Block.enterInner_st (b : Block) : (b.enterInner).st = .retrying := rfl
@[simp] theorem Block.enterInner_oc (b : Block) : (b.enterInner).oc = b.oc := rfl
@[simp] theorem Block.enterInner_ic (b : Block) : (b.enterInner).ic = 0 := rfl
@[simp] theorem Block.enterInner_resValid (b : Block) : (b.enterInner).resValid = b.resValid := rfl
@[simp] theorem Block.enterInner_cause (b : Block) : (b.enterInner).cause = b.cause := rfl
@[simp] theorem Block.enterInner_rxBuf (b : Block) : (b.enterInner).rxBuf = b.rxBuf := rfl

/-! ### Transport.spend -/

@[simp] theorem Transport.spend_rxQueue (t : Transport) : t.spend.rxQueue = t.rxQueue := rfl
@[simp] theorem Transport.spend_history (t : Transport) : t.spend.history = t.history := rfl
@[simp] theorem Transport.spend_arrivals (t : Transport) : t.spend.arrivals = t.arrivals := rfl
@[simp] theorem Transport.spend_draws (t : Transport) : t.spend.draws = t.draws := rfl
@[simp] theorem Transport.spend_callsLeft (t : Transport) : t.spend.callsLeft = t.callsLeft.map (fun k => k - 1) := rfl

/-! ### Transport.bring -/

@[simp] theorem Transport.bring_rxQueue (a : Arrival) (t : Transport) : (t.bring a).rxQueue = t.rxQueue.drop a.lost ++ a.bytes := rfl
@[simp] theorem Transport.bring_history (a : Arrival) (t : Transport) : (t.bring a).history = t.history := rfl
@[simp] theorem Transport.bring_arrivals (a : Arrival) (t : Transport) : (t.bring a).arrivals = t.arrivals := rfl
@[simp] theorem Transport.bring_draws (a : Arrival) (t : Transport) : (t.bring a).draws = t.draws := rfl
@[simp] theorem Transport.bring_callsLeft (a : Arrival) (t : Transport) : (t.bring a).callsLeft = t.callsLeft := rfl

/-! ### Transport.arrive -/

@[simp] theorem Transport.arrive_rxQueue (bs : List Byte) (t : Transport) : (t.arrive bs).rxQueue = t.rxQueue ++ bs := rfl
@[simp] theorem Transport.arrive_history (bs : List Byte) (t : Transport) : (t.arrive bs).history = t.history := rfl
@[simp] theorem Transport.arrive_arrivals (bs : List Byte) (t : Transport) : (t.arrive bs).arrivals = t.arrivals := rfl
@[simp] theorem Transport.arrive_draws (bs : List Byte) (t : Transport) : (t.arrive bs).draws = t.draws := rfl
@[simp] theorem Transport.arrive_callsLeft (bs : List Byte) (t : Transport) : (t.arrive bs).callsLeft = t.callsLeft := rfl

/-! ### Transport.record -/

@[simp] theorem Transport.record_rxQueue (e : Event) (t : Transport) : (t.record e).rxQueue = t.rxQueue := rfl
@[simp] theorem Transport.record_history (e : Event) (t : Transport) : (t.record e).history = t.history ++ [e] := rfl
@[simp] theorem Transport.record_arrivals (e : Event) (t : Transport) : (t.record e).arrivals = t.arrivals := rfl
@[simp] theorem Transport.record_draws (e : Event) (t : Transport) : (t.record e).draws = t.draws := rfl
@[simp] theorem Transport.record_callsLeft (e : Event) (t : Transport) : (t.record e).callsLeft = t.callsLeft := rfl

/-! ### State.setBlock -/

@[simp] theorem State.setBlock_cfg (b : Block) (s : State) : (s.setBlock b).cfg = s.cfg := rfl
@[simp] theorem State.setBlock_block (b : Block) (s : State) : (s.setBlock b).block = b := rfl
@[simp] theorem State.setBlock_transport (b : Block) (s : State) : (s.setBlock b).transport = s.transport := rfl
@[simp] theorem State.setBlock_host (b : Block) (s : State) : (s.setBlock b).host = s.host := rfl

/-! ### State.setTransport -/

@[simp] theorem State.setTransport_cfg (t : Transport) (s : State) : (s.setTransport t).cfg = s.cfg := rfl
@[simp] theorem State.setTransport_block (t : Transport) (s : State) : (s.setTransport t).block = s.block := rfl
@[simp] theorem State.setTransport_transport (t : Transport) (s : State) : (s.setTransport t).transport = t := rfl
@[simp] theorem State.setTransport_host (t : Transport) (s : State) : (s.setTransport t).host = s.host := rfl

/-! ### State.tell -/

@[simp] theorem State.tell_cfg (r : Reply) (s : State) : (s.tell r).cfg = s.cfg := rfl
@[simp] theorem State.tell_block (r : Reply) (s : State) : (s.tell r).block = s.block := rfl
@[simp] theorem State.tell_transport (r : Reply) (s : State) : (s.tell r).transport = s.transport := rfl
@[simp] theorem State.tell_host (r : Reply) (s : State) : (s.tell r).host = { s.host with reply := r } := rfl

/-! ### State.await -/

@[simp] theorem State.await_cfg (w : Waiter) (s : State) : (s.await w).cfg = s.cfg := rfl
@[simp] theorem State.await_block (w : Waiter) (s : State) : (s.await w).block = s.block := rfl
@[simp] theorem State.await_transport (w : Waiter) (s : State) : (s.await w).transport = s.transport := rfl
@[simp] theorem State.await_host (w : Waiter) (s : State) : (s.await w).host = { s.host with waiter := w } := rfl

/-! ### State.popTo -/

@[simp] theorem State.popTo_cfg (rest : List Request) (s : State) : (s.popTo rest).cfg = s.cfg := rfl
@[simp] theorem State.popTo_block (rest : List Request) (s : State) : (s.popTo rest).block = s.block := rfl
@[simp] theorem State.popTo_transport (rest : List Request) (s : State) : (s.popTo rest).transport = s.transport := rfl
@[simp] theorem State.popTo_host (rest : List Request) (s : State) : (s.popTo rest).host = { s.host with pending := rest } := rfl

/-! ### State.arrive -/

@[simp] theorem State.arrive_cfg (bs : List Byte) (s : State) : (s.arrive bs).cfg = s.cfg := rfl
@[simp] theorem State.arrive_block (bs : List Byte) (s : State) : (s.arrive bs).block = s.block := rfl
@[simp] theorem State.arrive_transport (bs : List Byte) (s : State) : (s.arrive bs).transport = s.transport.arrive bs := rfl
@[simp] theorem State.arrive_host (bs : List Byte) (s : State) : (s.arrive bs).host = s.host := rfl

/-! ### State.resetBlock -/

@[simp] theorem State.resetBlock_cfg (s : State) : (s.resetBlock).cfg = s.cfg := rfl
@[simp] theorem State.resetBlock_block (s : State) : (s.resetBlock).block = Block.reset := rfl
@[simp] theorem State.resetBlock_transport (s : State) : (s.resetBlock).transport = s.transport := rfl
@[simp] theorem State.resetBlock_host (s : State) : (s.resetBlock).host = { s.host with waiter := .nobody, reply := .none } := rfl

end Sys2Proof.Machine
end

