-- ==== Sys2Proof/Laws/Ops.lean ====
section
/-! SUPPORT. One lemma per shared operation: everything it can do. -/

namespace Sys2Proof.Machine

open Sys2Proof

/-! ### The transport -/

/-- A call returns unless none is left (R133). -/
theorem Transport.returns_none_iff (t : Transport) : t.returns = none ↔ t.callsLeft = some 0 := by
  simp [Transport.returns]

theorem Transport.returns_some {t u : Transport} (h : t.returns = some u) : t.callsLeft ≠ some 0 ∧ u = t.spend := by
  unfold Transport.returns at h
  split at h
  · cases h
  · exact ⟨by assumption, (Option.some.inj h).symm⟩

/-- A draw changes the script of arrivals or the count of draws, nothing else. -/
@[simp] theorem Transport.draw_rxQueue (t : Transport) : t.draw.2.rxQueue = t.rxQueue := by
  unfold Transport.draw; split <;> rfl

@[simp] theorem Transport.draw_history (t : Transport) : t.draw.2.history = t.history := by
  unfold Transport.draw; split <;> rfl

@[simp] theorem Transport.draw_callsLeft (t : Transport) : t.draw.2.callsLeft = t.callsLeft := by
  unfold Transport.draw; split <;> rfl

/-- The next arrival does not depend on the calls that are left. -/
@[simp] theorem Transport.draw_spend (t : Transport) : t.spend.draw.1 = t.draw.1 := by
  unfold Transport.draw
  rw [Transport.spend_arrivals, Transport.spend_draws]
  split <;> rfl

/-- What the queue holds once the next arrival has taken place; no call is made and none recorded. -/
@[simp] theorem Transport.listen_rxQueue (t : Transport) :
    t.listen.rxQueue = t.rxQueue.drop t.draw.1.lost ++ t.draw.1.bytes := by
  simp [Transport.listen]

@[simp] theorem Transport.listen_history (t : Transport) : t.listen.history = t.history := by
  simp [Transport.listen]

@[simp] theorem Transport.listen_callsLeft (t : Transport) : t.listen.callsLeft = t.callsLeft := by
  simp [Transport.listen]

/-- TxWrite returns unless the transport hangs, and then records the bytes (R42). -/
theorem Transport.write_some {t u : Transport} {bs : List Byte} (h : t.write bs = some u) :
    t.callsLeft ≠ some 0 ∧ u = t.spend.record (.tx bs) := by
  unfold Transport.write at h
  obtain ⟨v, hv, rfl⟩ := Option.map_eq_some_iff.mp h
  obtain ⟨h1, rfl⟩ := Transport.returns_some hv
  exact ⟨h1, rfl⟩

theorem Transport.write_returns {t : Transport} (bs : List Byte) (h : t.callsLeft ≠ some 0) :
    t.write bs = some (t.spend.record (.tx bs)) := by
  simp [Transport.write, Transport.returns, h]

theorem Transport.write_none_iff (t : Transport) (bs : List Byte) : t.write bs = none ↔ t.callsLeft = some 0 := by
  simp [Transport.write, Transport.returns_none_iff]

theorem Transport.read_none_iff (t : Transport) (n : Nat) : t.read n = none ↔ t.callsLeft = some 0 := by
  unfold Transport.read
  rw [← Transport.returns_none_iff]
  cases t.returns <;> simp
  split <;> simp

theorem Transport.waiting_none_iff (t : Transport) : t.waiting = none ↔ t.callsLeft = some 0 := by
  unfold Transport.waiting
  rw [← Transport.returns_none_iff]
  cases t.returns <;> simp

/-- RxRead(n): at most `n` bytes, one event, one call, and what is left of the queue after the arrival (R43). -/
theorem Transport.read_some {t u : Transport} {n : Nat} {r : List Byte} (h : t.read n = some (r, u)) :
    t.callsLeft ≠ some 0 ∧ r.length ≤ n ∧ u.history = t.history ++ [.rx n r] ∧ u.callsLeft = t.spend.callsLeft ∧
      (n = 0 → r = [] ∧ u.rxQueue = t.rxQueue) ∧
      (0 < n → r = (t.rxQueue.drop t.draw.1.lost ++ t.draw.1.bytes).take n ∧
        u.rxQueue = (t.rxQueue.drop t.draw.1.lost ++ t.draw.1.bytes).drop n) := by
  unfold Transport.read at h
  split at h
  · cases h
  · rename_i v hv
    obtain ⟨h1, rfl⟩ := Transport.returns_some hv
    split at h
    · rename_i hn
      subst hn
      obtain ⟨rfl, rfl⟩ := Prod.mk.inj (Option.some.inj h)
      refine ⟨h1, ?_, ?_, rfl, ?_, ?_⟩ <;> simp
    · rename_i hn
      obtain ⟨rfl, rfl⟩ := Prod.mk.inj (Option.some.inj h)
      refine ⟨h1, ?_, ?_, ?_, fun h0 => absurd h0 hn, fun _ => ⟨?_, ?_⟩⟩ <;> simp

/-- RxWaiting(): one event, one call, the arrival before it, and the count of the queue (R45). -/
theorem Transport.waiting_some {t u : Transport} {k : Nat} (h : t.waiting = some (k, u)) :
    t.callsLeft ≠ some 0 ∧ k = u.rxQueue.length ∧ u.rxQueue = t.rxQueue.drop t.draw.1.lost ++ t.draw.1.bytes ∧
      u.history = t.history ++ [.waiting k] ∧ u.callsLeft = t.spend.callsLeft := by
  unfold Transport.waiting at h
  split at h
  · cases h
  · rename_i v hv
    obtain ⟨h1, rfl⟩ := Transport.returns_some hv
    obtain ⟨rfl, rfl⟩ := Prod.mk.inj (Option.some.inj h)
    exact ⟨h1, by simp, by simp, by simp, by simp⟩

/-- CHECK_RESET makes at most two calls, none of them a write (R161). -/
theorem Transport.checkReset_spec (t : Transport) :
    (t.waiting = none ∧ t.checkReset = (.hangs, t)) ∨
    ∃ w u, t.waiting = some (w, u) ∧
      ((w ≠ 5 ∧ t.checkReset = (.proceed, u)) ∨
       (w = 5 ∧ u.read 5 = none ∧ t.checkReset = (.hangs, u)) ∨
       (w = 5 ∧ ∃ r v, u.read 5 = some (r, v) ∧
          ((r.length < 5 ∧ t.checkReset = (.failed (.readerFault .resetDrainTimeout), v)) ∨
           (¬ r.length < 5 ∧ t.checkReset = (.failed .deviceResetDetected, v))))) := by
  unfold Transport.checkReset
  rcases hw : t.waiting with _ | ⟨w, u⟩
  · exact .inl ⟨rfl, rfl⟩
  · refine .inr ⟨w, u, rfl, ?_⟩
    by_cases h5 : w = 5
    · subst h5
      rcases hr : u.read 5 with _ | ⟨r, v⟩
      · exact .inr (.inl ⟨rfl, rfl, by simp [hr]⟩)
      · refine .inr (.inr ⟨rfl, r, v, rfl, ?_⟩)
        by_cases hl : r.length < 5
        · exact .inl ⟨hl, by simp [hr, hl]⟩
        · exact .inr ⟨hl, by simp [hr, hl]⟩
    · exact .inl ⟨h5, by simp [h5]⟩

/-! ### The block and the host -/

theorem Block.accepts_iff (b : Block) : b.accepts = true ↔ b.st = .idle ∨ b.st = .success ∨ b.st = .faulted := by
  simp [Block.accepts]

/-- START or BUSY (R121, R135). -/
theorem State.startOrBusy_spec (w : Waiter) (id : Byte) (pay : List Byte) (exp : BitVec 9) (s : State) :
    (s.block.accepts = true ∧
      s.startOrBusy w id pay exp =
        { s with block := s.block.start id pay exp, host := { s.host with waiter := w, reply := .started } }) ∨
    (s.block.accepts = false ∧
      s.startOrBusy w id pay exp = { s with host := { s.host with reply := .busy } }) := by
  unfold State.startOrBusy
  split
  · exact .inl ⟨by assumption, rfl⟩
  · exact .inr ⟨by simp_all, rfl⟩

/-- The host is told the outcome when it waits; parameters, block, transport and requests stay. -/
theorem State.conclude_spec (r : Reply) (s : State) :
    ((s.host.waiter = .nobody ∨ s.host.waiter = .stuck) ∧ s.conclude r = s) ∨
    (s.host.waiter ≠ .nobody ∧ s.host.waiter ≠ .stuck ∧
      s.conclude r = { s with host := { s.host with waiter := .nobody, reply := r } }) := by
  unfold State.conclude
  split
  · exact .inl ⟨.inl (by assumption), rfl⟩
  · exact .inl ⟨.inr (by assumption), rfl⟩
  · exact .inr ⟨by assumption, by assumption, rfl⟩

/-- Only the host's side differs after `conclude`, and there only `waiter` and `reply`. -/
theorem State.conclude_frame (r : Reply) (s : State) :
    (s.conclude r).cfg = s.cfg ∧ (s.conclude r).block = s.block ∧ (s.conclude r).transport = s.transport ∧
      (s.conclude r).host.pending = s.host.pending := by
  rcases s.conclude_spec r with ⟨_, e⟩ | ⟨_, _, e⟩ <;> simp [e]

/-- SUCCESS is entered: the block holds the packet (R124, R126). -/
theorem State.succeed_frame (p : Packet) (s : State) :
    (s.succeed p).cfg = s.cfg ∧ (s.succeed p).block = s.block.succeed p ∧
      (s.succeed p).transport = s.transport ∧ (s.succeed p).host.pending = s.host.pending := by
  unfold State.succeed
  dsimp only
  split
  · exact State.conclude_frame _ _
  · simp

/-- An array read has as many entries as were asked for. -/
@[simp] theorem arrayRead_length (n : Nat) (bs : List Byte) : (arrayRead n bs).length = n := by
  simp [arrayRead]

/-- Where enough entries have been written, those are read. -/
theorem arrayRead_eq_take {n : Nat} {bs : List Byte} (h : n ≤ bs.length) : arrayRead n bs = bs.take n := by
  simp [arrayRead, List.take_append_of_le_length h]

theorem arrayRead_eq_self {n : Nat} {bs : List Byte} (h : bs.length = n) : arrayRead n bs = bs := by
  rw [arrayRead_eq_take h.ge, List.take_of_length_le h.le]

/-- The packet read back is the packet entered, when its payload fits RES_CNT. -/
theorem Block.succeed_result (p : Packet) (b : Block) (h : p.payload.length < 512) :
    (b.succeed p).result = some p := by
  simp [Block.result, Block.resultPacket, Nat.mod_eq_of_lt h, arrayRead_eq_self]

/-- The host reads the transaction's packet, the reset values before the first START, and otherwise nothing (R22). -/
theorem Block.hostRead_spec (b : Block) :
    (b.resValid = true ∧ b.hostRead = b.result) ∨
    (b.resValid = false ∧ b.st = .idle ∧ b.hostRead = some b.resultPacket) ∨
    (b.resValid = false ∧ b.st ≠ .idle ∧ b.hostRead = none) := by
  cases hv : b.resValid
  · by_cases hs : b.st = .idle
    · exact .inr (.inl ⟨rfl, hs, by simp [Block.hostRead, hs]⟩)
    · exact .inr (.inr ⟨rfl, hs, by simp [Block.hostRead, hs, hv]⟩)
  · exact .inl ⟨rfl, by simp [Block.hostRead, Block.result, hv]⟩

/-- FAULTED is entered: only ST changes in the block (R127). -/
theorem State.faulted_frame (s : State) :
    s.faulted.cfg = s.cfg ∧ s.faulted.block = s.block.goto .faulted ∧ s.faulted.transport = s.transport ∧
      s.faulted.host.pending = s.host.pending := by
  unfold State.faulted
  dsimp only
  split
  · exact State.conclude_frame _ _
  · simp

/-- RxRead(EXP_LEN) into the receive buffer. -/
theorem State.receive_spec (s : State) :
    (s.transport.callsLeft = some 0 ∧ s.receive = none) ∨
    ∃ r t, s.transport.callsLeft ≠ some 0 ∧ s.transport.read s.block.expLen.toNat = some (r, t) ∧
      s.receive = some { s with transport := t, block := { s.block with rxBuf := r } } := by
  unfold State.receive
  rcases hr : s.transport.read s.block.expLen.toNat with _ | ⟨r, t⟩
  · exact .inl ⟨(Transport.read_none_iff _ _).mp hr, rfl⟩
  · exact .inr ⟨r, t, (Transport.read_some hr).1, rfl, rfl⟩

/-- RECV's writes (R124). -/
theorem State.afterRecv_spec (c : RxClass) (s : State) :
    (s.afterRecv c).cfg = s.cfg ∧ (s.afterRecv c).transport = s.transport ∧
      (s.afterRecv c).host.pending = s.host.pending ∧
      ((∃ p, c = .good p ∧ s.afterRecv c = s.succeed p ∧ (s.afterRecv c).block = s.block.succeed p) ∨
       (c = .err ∧ s.block.oc < 2 ∧ s.afterRecv c = s.setBlock (s.block.goto .sending)) ∨
       (c = .err ∧ ¬ s.block.oc < 2 ∧ s.afterRecv c = s.setBlock (s.block.escalateWith .retryExhausted)) ∨
       (c = .fail ∧ s.afterRecv c = s.setBlock s.block.enterInner)) := by
  cases c with
  | good p =>
    have h := State.succeed_frame p s
    exact ⟨h.1, h.2.2.1, h.2.2.2, .inl ⟨p, rfl, rfl, h.2.1⟩⟩
  | err =>
    by_cases h : s.block.oc < 2
    · rw [show s.afterRecv .err = _ from if_pos h]
      exact ⟨rfl, rfl, rfl, .inr (.inl ⟨rfl, h, rfl⟩)⟩
    · rw [show s.afterRecv .err = _ from if_neg h]
      exact ⟨rfl, rfl, rfl, .inr (.inr (.inl ⟨rfl, h, rfl⟩))⟩
  | fail => exact ⟨rfl, rfl, rfl, .inr (.inr (.inr ⟨rfl, rfl⟩))⟩

/-- ERRRECV's writes (R126). -/
theorem State.afterErrRecv_spec (c : RxClass) (s : State) :
    (s.afterErrRecv c).cfg = s.cfg ∧ (s.afterErrRecv c).transport = s.transport ∧
      (s.afterErrRecv c).host.pending = s.host.pending ∧
      ((∃ p, c = .good p ∧ s.afterErrRecv c = s.succeed p ∧ (s.afterErrRecv c).block = s.block.succeed p) ∨
       (c = .err ∧ s.afterErrRecv c = s.setBlock (s.block.escalateWith .errorEcho)) ∨
       (c = .fail ∧ s.block.ic < 2 ∧ s.afterErrRecv c = s.setBlock (s.block.goto .retrying)) ∨
       (c = .fail ∧ ¬ s.block.ic < 2 ∧ s.block.oc < 2 ∧ s.afterErrRecv c = s.setBlock (s.block.goto .sending)) ∨
       (c = .fail ∧ ¬ s.block.ic < 2 ∧ ¬ s.block.oc < 2 ∧
          s.afterErrRecv c = s.setBlock (s.block.escalateWith .retryExhausted))) := by
  cases c with
  | good p =>
    have h := State.succeed_frame p s
    exact ⟨h.1, h.2.2.1, h.2.2.2, .inl ⟨p, rfl, rfl, h.2.1⟩⟩
  | err => exact ⟨rfl, rfl, rfl, .inr (.inl ⟨rfl, rfl⟩)⟩
  | fail =>
    by_cases h : s.block.ic < 2
    · rw [show s.afterErrRecv .fail = _ from if_pos h]
      exact ⟨rfl, rfl, rfl, .inr (.inr (.inl ⟨rfl, h, rfl⟩))⟩
    · by_cases h' : s.block.oc < 2
      · rw [show s.afterErrRecv .fail = _ from (if_neg h).trans (if_pos h')]
        exact ⟨rfl, rfl, rfl, .inr (.inr (.inr (.inl ⟨rfl, h, h', rfl⟩)))⟩
      · rw [show s.afterErrRecv .fail = _ from (if_neg h).trans (if_neg h')]
        exact ⟨rfl, rfl, rfl, .inr (.inr (.inr (.inr ⟨rfl, h, h', rfl⟩)))⟩

/-- A command's stages (2) and (3) (R160): how they can end. -/
theorem State.command_spec (w : Waiter) (id : Byte) (pay : List Byte) (exp : BitVec 9) (s : State) :
    (∃ t, s.transport.checkReset = (.hangs, t) ∧
      s.command w id pay exp = { s with transport := t, host := { s.host with waiter := .stuck } }) ∨
    (∃ e t, s.transport.checkReset = (.failed e, t) ∧
      s.command w id pay exp = { s with transport := t, host := { s.host with reply := .error e } }) ∨
    (∃ t, s.transport.checkReset = (.proceed, t) ∧
      s.command w id pay exp = ({ s with transport := t } : State).startOrBusy w id pay exp) := by
  unfold State.command
  rcases s.transport.checkReset with ⟨_ | e | _, t⟩
  · exact .inr (.inr ⟨t, rfl, rfl⟩)
  · exact .inr (.inl ⟨e, t, rfl, rfl⟩)
  · exact .inl ⟨t, rfl, rfl⟩

/-- A frame row changes the receive queue only. -/
theorem State.frameArrives_next {m : String} {id : Byte} {body : FrameBody} {s t : State}
    (h : s.frameArrives m id body = .next t) : t = s.arrive (lineBytes id body) := by
  unfold State.frameArrives at h
  split at h
  · cases h; rfl
  · cases h

/-! ### Fetching -/

/-- The transceiver's own move is the step of ST (R130). -/
theorem fetchFsm_eq (s : State) :
    fetchFsm s = match s.block.st.instr with
      | some i => .run i s
      | none => .moved s := by
  cases hs : s.block.st <;>
    simp [fetchFsm, Block.accepts, hs, State.stByte, St.code, St.instr, decodeExact, decode, decodeFsm]

end Sys2Proof.Machine
end

