-- ==== Sys2Proof/Laws/PerInstr.lean ====
section
/-! SUPPORT. Per instruction: what the encoder writes, the decoder reads back. -/

namespace Sys2Proof.Laws.RoundTrip

open Sys2Proof

/-- A well-formed instruction comes back from its bytes. -/
def Statement (i : Instr) : Prop :=
  ∀ c : Config, c.Wf → i.wellFormed c = true → Sys2Proof.decode c (Sys2Proof.encode c i).1 (Sys2Proof.encode c i).2 = .ok (i, [])

theorem encode (id : Byte) (pay : List Byte) : Statement (.encode id pay) := by
  intro c _ h
  have := readIdPay_idPayBytes id pay [] (by simpa [Instr.wellFormed, payFits] using h)
  rw [List.append_nil] at this
  simp [Sys2Proof.encode, Sys2Proof.decode, decodePort, this]

theorem decode (raw : List Byte) : Statement (.decode raw) := by
  intro c _ h
  have hl : raw.length ≤ 511 := by simpa [Instr.wellFormed, rawFits] using h
  have h9 := read9_twoBytes raw.length raw (by omega)
  have ht := takeBytes_append (n := raw.length) raw [] rfl
  rw [List.append_nil] at ht
  have : raw.length % 512 = raw.length := Nat.mod_eq_of_lt (by omega)
  simp [Sys2Proof.encode, Sys2Proof.decode, decodePort, h9, ht, this]

theorem transceive (id : Byte) (pay : List Byte) (exp : BitVec 9) : Statement (.transceive id pay exp) := by
  intro c _ h
  have := readIdPayExp_bytes id pay exp [] (by simpa [Instr.wellFormed, payFits] using h)
  rw [List.append_nil] at this
  simp [Sys2Proof.encode, Sys2Proof.decode, decodePort, this]

theorem reservedOp3 : Statement .reservedOp3 := by
  intro c _ _
  rfl

theorem start (id : Byte) (pay : List Byte) (exp : BitVec 9) : Statement (.start id pay exp) := by
  intro c _ h
  have := readIdPayExp_bytes id pay exp [] (by simpa [Instr.wellFormed, payFits] using h)
  rw [List.append_nil] at this
  simp [Sys2Proof.encode, Sys2Proof.decode, decodeFsm, this]

theorem send : Statement .send := by
  intro c _ _
  rfl

theorem recv : Statement .recv := by
  intro c _ _
  rfl

theorem errsend : Statement .errsend := by
  intro c _ _
  rfl

theorem errrecv : Statement .errrecv := by
  intro c _ _
  rfl

theorem escalate : Statement .escalate := by
  intro c _ _
  rfl

theorem checkReset : Statement .checkReset := by
  intro c _ _
  rfl

theorem setLeds (mask : Byte) : Statement (.setLeds mask) := by
  intro c _ _
  rfl

theorem beep (tones : List Tone) (again : Bool) : Statement (.beep tones again) := by
  intro c _ h
  have hl : tones.length < 65536 := by simpa [Instr.wellFormed, callCountFits] using h
  have h16 := read16_twoBytes tones.length (tones.flatMap toneArgBytes) hl
  have ht := readTones_bytes tones []
  rw [List.append_nil] at ht
  have : tones.length % 65536 = tones.length := Nat.mod_eq_of_lt hl
  cases again <;> simp [Sys2Proof.encode, Sys2Proof.decode, decodeCall, h16, this, ht]

theorem rfidSend (pay : List Byte) : Statement (.rfidSend pay) := by
  intro c _ h
  have hl : pay.length < 65536 := by simpa [Instr.wellFormed, callCountFits] using h
  have h16 := read16_twoBytes pay.length pay hl
  have ht := takeBytes_append (n := pay.length) pay [] rfl
  rw [List.append_nil] at ht
  have : pay.length % 65536 = pay.length := Nat.mod_eq_of_lt hl
  simp [Sys2Proof.encode, Sys2Proof.decode, decodeCall, h16, this, ht]

theorem frame (id : Byte) (body : FrameBody) : Statement (.frame id body) := by
  intro c _ h
  have := readFrame_frameBytes id body [] (by simpa [Instr.wellFormed, payFits] using h)
  rw [List.append_nil] at this
  simp [Sys2Proof.encode, Sys2Proof.decode, this]

theorem rxError (body : FrameBody) : Statement (.rxError body) := by
  intro c _ h
  exact decode_wire c Config.idRxError body (by simpa [Instr.wellFormed, payFits] using h)

/-- A named id is read as its row: it is none of the ids tested before it. -/
theorem named {c : Config} {id : Byte} {body : FrameBody} (hc : c.Wf) (hid : id ∈ c.ids)
    (h : payFits body.payload = true) :
    Sys2Proof.decode c .wire (frameBytes id body) =
      .ok (if id = c.idAnswerToReset then .answerToReset body
        else if id = c.idGetStatus then .getStatus body
        else if id = c.idSetLed then .setLed body
        else if id = c.idAck then .ack body
        else if id = c.idBeep then .beepFrame body
        else if id = c.idRfidSend then .rfidSendFrame body
        else if id = c.idRfidSendComplete then .rfidSendComplete body
        else .firmwareIds id body, []) := by
  rw [decode_wire c id body (by simpa [payFits] using h), frameRow,
    if_neg (hc.facts.1 id hid).1, if_neg (hc.facts.1 id hid).2]

theorem answerToReset (body : FrameBody) : Statement (.answerToReset body) := by
  intro c hc h
  exact (named hc (by simp [Config.ids]) h).trans (by simp)

theorem getStatus (body : FrameBody) : Statement (.getStatus body) := by
  intro c hc h
  have := hc.2
  simp only [Config.ids, List.nodup_cons, List.mem_cons, not_or] at this
  exact (named hc (by simp [Config.ids]) h).trans (by simp [Ne.symm this.1.1])

theorem setLed (body : FrameBody) : Statement (.setLed body) := by
  intro c hc h
  have := hc.2
  simp only [Config.ids, List.nodup_cons, List.mem_cons, not_or] at this
  exact (named hc (by simp [Config.ids]) h).trans (by simp [Ne.symm this.1.2.1, Ne.symm this.2.1.1])

theorem ack (body : FrameBody) : Statement (.ack body) := by
  intro c hc h
  have := hc.2
  simp only [Config.ids, List.nodup_cons, List.mem_cons, not_or] at this
  exact (named hc (by simp [Config.ids]) h).trans
    (by simp [Ne.symm this.1.2.2.1, Ne.symm this.2.1.2.1, Ne.symm this.2.2.1.1])

theorem beepFrame (body : FrameBody) : Statement (.beepFrame body) := by
  intro c hc h
  have := hc.2
  simp only [Config.ids, List.nodup_cons, List.mem_cons, not_or] at this
  exact (named hc (by simp [Config.ids]) h).trans
    (by simp [Ne.symm this.1.2.2.2.1, Ne.symm this.2.1.2.2.1, Ne.symm this.2.2.1.2.1, Ne.symm this.2.2.2.1.1])

theorem rfidSendFrame (body : FrameBody) : Statement (.rfidSendFrame body) := by
  intro c hc h
  have := hc.2
  simp only [Config.ids, List.nodup_cons, List.mem_cons, not_or] at this
  exact (named hc (by simp [Config.ids]) h).trans
    (by simp [Ne.symm this.1.2.2.2.2.1, Ne.symm this.2.1.2.2.2.1, Ne.symm this.2.2.1.2.2.1, Ne.symm this.2.2.2.1.2.1,
      Ne.symm this.2.2.2.2.1.1])

theorem rfidSendComplete (body : FrameBody) : Statement (.rfidSendComplete body) := by
  intro c hc h
  have := hc.2
  simp only [Config.ids, List.nodup_cons, List.mem_cons, not_or] at this
  exact (named hc (by simp [Config.ids]) h).trans
    (by simp [Ne.symm this.1.2.2.2.2.2.1, Ne.symm this.2.1.2.2.2.2.1, Ne.symm this.2.2.1.2.2.2.1,
      Ne.symm this.2.2.2.1.2.2.1, Ne.symm this.2.2.2.2.1.2.1, Ne.symm this.2.2.2.2.2.1.1])

theorem firmwareIds (id : Byte) (body : FrameBody) : Statement (.firmwareIds id body) := by
  intro c _ h
  have hw : (id ≤ Config.maxEnumId ∧ id ∉ c.ids) ∧ body.payload.length ≤ 255 := by
    simpa [Instr.wellFormed, Config.isFirmwareId, payFits] using h
  have h1 : id ≠ Config.idRxError := by
    rintro rfl
    exact absurd hw.1.1 (by decide)
  have h2 : ¬ Config.maxEnumId < id := BitVec.not_lt.mpr hw.1.1
  have h3 := hw.1.2
  simp only [Config.ids, List.mem_cons, not_or] at h3
  refine (decode_wire c id body hw.2).trans ?_
  rw [frameRow, if_neg h1, if_neg h2]
  simp [h3]

theorem unassignedId (id : Byte) (body : FrameBody) : Statement (.unassignedId id body) := by
  intro c _ h
  have hw : (Config.maxEnumId < id ∧ id ≠ Config.idRxError) ∧ body.payload.length ≤ 255 := by
    simpa only [Instr.wellFormed, isUnassignedId, payFits, Bool.and_eq_true, decide_eq_true_eq, bne_iff_ne] using h
  refine (decode_wire c id body hw.2).trans ?_
  rw [frameRow, if_neg hw.1.2, if_pos hw.1.1]

end Sys2Proof.Laws.RoundTrip
end

