-- ==== Sys2Proof/Laws/Step.lean ====
section
/-! SUPPORT. What one instruction and one step can do, said once: the registers of the block change in seven ways and no
other. -/

namespace Sys2Proof.Machine

open Sys2Proof

/-- How an instruction changes the block, the transport and the waiting host. -/
inductive BlockMove (s t : State) : Prop where
  /-- The block is not written; at most CHECK_RESET's two calls are made. -/
  | stays (hb : t.block = s.block) (hw : t.host.waiter = s.host.waiter ∨ t.host.waiter = .stuck)
  /-- START (T1). -/
  | starts (id : Byte) (pay : List Byte) (exp : BitVec 9) (ha : s.block.accepts = true) (hp : pay.length ≤ 255)
      (hb : t.block = s.block.start id pay exp)
  /-- SEND (T2). -/
  | sends (hs : s.block.st = .sending) (hb : t.block = s.block.sent) (hh : t.host = s.host)
  /-- RECV (T3 to T6). -/
  | receives (r : List Byte) (u : Transport) (hs : s.block.st = .awaiting)
      (hr : s.transport.read s.block.expLen.toNat = some (r, u))
      (ht : t = State.afterRecv (rxClass s.cfg.lenCheck r s.block.expLen.toNat)
        { s with transport := u, block := { s.block with rxBuf := r } })
  /-- ERRSEND (T7). -/
  | errSends (hs : s.block.st = .retrying) (hb : t.block = s.block.errSent) (hh : t.host = s.host)
  /-- ERRRECV (T8 to T12). -/
  | errReceives (r : List Byte) (u : Transport) (hs : s.block.st = .reawaiting)
      (hr : s.transport.read s.block.expLen.toNat = some (r, u))
      (ht : t = State.afterErrRecv (rxClass s.cfg.lenCheck r s.block.expLen.toNat)
        { s with transport := u, block := { s.block with rxBuf := r } })
  /-- ESCALATE (T13). -/
  | escalates (hs : s.block.st = .escalating) (ht : t = s.faulted)

/-- The frame of one instruction: parameters and requests stay, and at most two transport calls are made. -/
structure Frame (s t : State) : Prop where
  cfg : t.cfg = s.cfg
  pending : t.host.pending = s.host.pending
  history : ∃ events, t.transport.history = s.transport.history ++ events ∧ events.length ≤ 2

theorem Frame.refl (s : State) : Frame s s := ⟨rfl, rfl, [], by simp, by simp⟩

theorem startOrBusy_move {w : Waiter} {id : Byte} {pay : List Byte} {exp : BitVec 9} {s u : State}
    (hp : pay.length ≤ 255) (hu : u.block = s.block) (hw : u.host = s.host) :
    BlockMove s (u.startOrBusy w id pay exp) := by
  rcases u.startOrBusy_spec w id pay exp with ⟨ha, e⟩ | ⟨_, e⟩
  · exact .starts id pay exp (hu ▸ ha) hp (by rw [e, ← hu])
  · exact .stays (by rw [e, ← hu]) (.inl (by rw [e, ← hw]))

theorem startOrBusy_frame (w : Waiter) (id : Byte) (pay : List Byte) (exp : BitVec 9) (u : State) :
    (u.startOrBusy w id pay exp).cfg = u.cfg ∧ (u.startOrBusy w id pay exp).host.pending = u.host.pending ∧
      (u.startOrBusy w id pay exp).transport = u.transport := by
  rcases u.startOrBusy_spec w id pay exp with ⟨_, e⟩ | ⟨_, e⟩ <;> simp [e]

/-- CHECK_RESET makes at most two calls. -/
theorem Transport.checkReset_history (t : Transport) :
    ∃ events, t.checkReset.2.history = t.history ++ events ∧ events.length ≤ 2 := by
  rcases t.checkReset_spec with ⟨_, e⟩ | ⟨w, u, hw, h⟩
  · exact ⟨[], by simp [e]⟩
  · have hu := (Transport.waiting_some hw).2.2.2.1
    rcases h with ⟨_, e⟩ | ⟨_, _, e⟩ | ⟨_, r, v, hr, ⟨_, e⟩ | ⟨_, e⟩⟩
    · exact ⟨[.waiting w], by simp [e, hu]⟩
    · exact ⟨[.waiting w], by simp [e, hu]⟩
    all_goals
      have hv := (Transport.read_some hr).2.2.1
      exact ⟨[.waiting w, .rx 5 r], by simp [e, hv, hu]⟩

theorem command_move {w : Waiter} {id : Byte} {pay : List Byte} {exp : BitVec 9} {s : State} (hp : pay.length ≤ 255) :
    Frame s (s.command w id pay exp) ∧ BlockMove s (s.command w id pay exp) := by
  have hh := s.transport.checkReset_history
  rcases s.command_spec w id pay exp with ⟨t, hc, e⟩ | ⟨x, t, hc, e⟩ | ⟨t, hc, e⟩
  all_goals rw [e]; rw [hc] at hh
  · exact ⟨⟨rfl, rfl, hh⟩, .stays rfl (.inr rfl)⟩
  · exact ⟨⟨rfl, rfl, hh⟩, .stays rfl (.inl rfl)⟩
  · have hf := startOrBusy_frame w id pay exp { s with transport := t }
    exact ⟨⟨hf.1, hf.2.1, by rw [hf.2.2]; exact hh⟩, startOrBusy_move hp rfl rfl⟩

theorem frameArrives_move {m : String} {id : Byte} {body : FrameBody} {s t : State}
    (h : s.frameArrives m id body = .next t) : Frame s t ∧ BlockMove s t := by
  rw [State.frameArrives_next h]
  exact ⟨⟨rfl, rfl, [], by simp⟩, .stays rfl (.inl rfl)⟩

/-- RECV: when it fires and the read returns, the class of the answer decides. -/
theorem execRecv_next {s t : State} (h : execRecv s = .next t) :
    t = s ∨ ∃ r u, s.block.st = .awaiting ∧ s.transport.read s.block.expLen.toNat = some (r, u) ∧
      t = State.afterRecv (rxClass s.cfg.lenCheck r s.block.expLen.toNat)
        { s with transport := u, block := { s.block with rxBuf := r } } := by
  unfold execRecv at h
  split at h
  · rename_i hs
    rcases s.receive_spec with ⟨_, e⟩ | ⟨r, u, _, hr, e⟩
    · rw [e] at h; cases h; exact .inl rfl
    · rw [e] at h; cases h; exact .inr ⟨r, u, hs, hr, rfl⟩
  · cases h; exact .inl rfl

/-- ERRRECV, likewise. -/
theorem execErrrecv_next {s t : State} (h : execErrrecv s = .next t) :
    t = s ∨ ∃ r u, s.block.st = .reawaiting ∧ s.transport.read s.block.expLen.toNat = some (r, u) ∧
      t = State.afterErrRecv (rxClass s.cfg.lenCheck r s.block.expLen.toNat)
        { s with transport := u, block := { s.block with rxBuf := r } } := by
  unfold execErrrecv at h
  split at h
  · rename_i hs
    rcases s.receive_spec with ⟨_, e⟩ | ⟨r, u, _, hr, e⟩
    · rw [e] at h; cases h; exact .inl rfl
    · rw [e] at h; cases h; exact .inr ⟨r, u, hs, hr, rfl⟩
  · cases h; exact .inl rfl

/-- Reading what `afterRecv` leaves alone. -/
theorem afterRecv_frame {s : State} {c : RxClass} {r : List Byte} {u : Transport} {n : Nat}
    (hr : s.transport.read n = some (r, u)) :
    Frame s (State.afterRecv c { s with transport := u, block := { s.block with rxBuf := r } }) := by
  have h := State.afterRecv_spec c { s with transport := u, block := { s.block with rxBuf := r } }
  exact ⟨h.1, h.2.2.1, [.rx n r], by rw [h.2.1]; exact (Transport.read_some hr).2.2.1, by simp⟩

theorem afterErrRecv_frame {s : State} {c : RxClass} {r : List Byte} {u : Transport} {n : Nat}
    (hr : s.transport.read n = some (r, u)) :
    Frame s (State.afterErrRecv c { s with transport := u, block := { s.block with rxBuf := r } }) := by
  have h := State.afterErrRecv_spec c { s with transport := u, block := { s.block with rxBuf := r } }
  exact ⟨h.1, h.2.2.1, [.rx n r], by rw [h.2.1]; exact (Transport.read_some hr).2.2.1, by simp⟩

/-- Everything an instruction can do. -/
theorem exec_move {i : Instr} {s t : State} (h : exec i s = .next t) : Frame s t ∧ BlockMove s t := by
  have told : ∀ r, Frame s (s.tell r) ∧ BlockMove s (s.tell r) :=
    fun r => ⟨⟨rfl, rfl, [], by simp⟩, .stays rfl (.inl rfl)⟩
  have same : Frame s s ∧ BlockMove s s := ⟨.refl s, .stays rfl (.inl rfl)⟩
  have starts : ∀ id pay exp, payFits pay = true →
      Frame s (s.startOrBusy .transceive id pay exp) ∧ BlockMove s (s.startOrBusy .transceive id pay exp) := by
    intro id pay exp hp
    have hf := startOrBusy_frame .transceive id pay exp s
    exact ⟨⟨hf.1, hf.2.1, [], by rw [hf.2.2]; simp⟩, startOrBusy_move (by simpa [payFits] using hp) rfl rfl⟩
  cases i with
  | encode id pay => simp only [exec, execEncode] at h; split at h <;> cases h; exact told _
  | decode raw => simp only [exec, execDecode] at h; split at h <;> cases h; exact told _
  | transceive id pay exp =>
    simp only [exec, execTransceive] at h; split at h <;> cases h; exact starts id pay exp (by assumption)
  | reservedOp3 => cases h; exact told _
  | start id pay exp =>
    simp only [exec, execStart] at h; split at h <;> cases h; exact starts id pay exp (by assumption)
  | send =>
    simp only [exec, execSend] at h
    split at h
    · rename_i hs
      split at h <;> cases h
      · rename_i u hu
        obtain ⟨_, rfl⟩ := Transport.write_some hu
        exact ⟨⟨rfl, rfl, _, rfl, by simp⟩, .sends hs rfl rfl⟩
      · exact same
    · cases h; exact same
  | recv =>
    rcases execRecv_next h with rfl | ⟨r, u, hs, hr, rfl⟩
    · exact same
    · exact ⟨afterRecv_frame hr, .receives r u hs hr rfl⟩
  | errsend =>
    simp only [exec, execErrsend] at h
    split at h
    · rename_i hs
      split at h <;> cases h
      · rename_i u hu
        obtain ⟨_, rfl⟩ := Transport.write_some hu
        exact ⟨⟨rfl, rfl, _, rfl, by simp⟩, .errSends hs rfl rfl⟩
      · exact same
    · cases h; exact same
  | errrecv =>
    rcases execErrrecv_next h with rfl | ⟨r, u, hs, hr, rfl⟩
    · exact same
    · exact ⟨afterErrRecv_frame hr, .errReceives r u hs hr rfl⟩
  | escalate =>
    simp only [exec, execEscalate] at h
    split at h <;> cases h
    · have hf := s.faulted_frame
      exact ⟨⟨hf.1, hf.2.2.2, [], by rw [hf.2.2.1]; simp⟩, .escalates (by assumption) rfl⟩
    · exact same
  | checkReset =>
    have hh := s.transport.checkReset_history
    simp only [exec, execCheckReset] at h
    split at h <;> cases h <;> (rename_i hc; rw [hc] at hh)
    · exact ⟨⟨rfl, rfl, hh⟩, .stays rfl (.inr rfl)⟩
    · exact ⟨⟨rfl, rfl, hh⟩, .stays rfl (.inl rfl)⟩
    · exact ⟨⟨rfl, rfl, hh⟩, .stays rfl (.inl rfl)⟩
  | setLeds mask =>
    simp only [exec, execSetLeds] at h
    split at h <;> cases h
    · exact told _
    · exact command_move (by simp [ledPayload])
  | beep tones again =>
    simp only [exec, execBeep] at h
    split at h <;> cases h
    · exact told _
    · rename_i hn
      refine command_move ?_
      have : ∀ (e : Endian) (ts : List Tone), (ts.flatMap (toneBytes e)).length = 4 * ts.length := by
        intro e ts
        induction ts with
        | nil => rfl
        | cons t ts ih => cases e <;> (simp [toneBytes, bytes16] at ih ⊢; omega)
      simp [beepPayload, Config.maxTones, this] at hn ⊢
      omega
  | rfidSend pay =>
    simp only [exec, execRfidSend] at h
    split at h <;> cases h
    · exact told _
    · rename_i hn
      exact command_move (by simp [Config.maxRfid] at hn; omega)
  | frame id body => exact frameArrives_move h
  | rxError body => exact frameArrives_move h
  | answerToReset body => exact frameArrives_move h
  | getStatus body => exact frameArrives_move h
  | setLed body => exact frameArrives_move h
  | ack body => exact frameArrives_move h
  | beepFrame body => exact frameArrives_move h
  | rfidSendFrame body => exact frameArrives_move h
  | rfidSendComplete body => exact frameArrives_move h
  | firmwareIds id body => exact frameArrives_move h
  | unassignedId id body => exact frameArrives_move h

/-- The state a fetched move leads to. -/
theorem run_fetchFsm {s t : State} (rest : List Request)
    (h : (match fetchFsm (s.popTo rest) with
      | .run i s => exec i s
      | .moved s => .next s
      | .stops f => .fault f
      | .rejects r => .refused r) = (Host.Outcome.next t : Result)) :
    (∃ i, exec i (s.popTo rest) = .next t) ∨ t = s.popTo rest := by
  rw [fetchFsm_eq] at h
  cases hi : (s.popTo rest).block.st.instr with
  | none => simp only [hi] at h; cases h; exact .inr rfl
  | some i => simp only [hi] at h; exact .inl ⟨i, h⟩

/-- Everything a request can do when the step takes it: an instruction, a host access, reset, or the transceiver's move. -/
theorem run_fetchRequest {r : Request} {rest : List Request} {s t : State}
    (h : (match fetchRequest r (s.popTo rest) with
      | .run i s => exec i s
      | .moved s => .next s
      | .stops f => .fault f
      | .rejects r => .refused r) = (Host.Outcome.next t : Result)) :
    (∃ i, exec i (s.popTo rest) = .next t) ∨ (∃ r, t = (s.popTo rest).tell r) ∨ t = s.popTo rest ∨
      (r = .reset ∧ t = (s.popTo rest).resetBlock) := by
  cases r with
  | present src bs =>
    simp only [fetchRequest] at h
    cases hd : decodeExact (s.popTo rest).cfg src bs with
    | ok i => simp only [hd] at h; exact .inl ⟨i, h⟩
    | error e => simp only [hd] at h; cases h
  | readStatus => cases h; exact .inr (.inl ⟨_, rfl⟩)
  | readResult =>
    simp only [fetchRequest] at h
    cases hr : (s.popTo rest).block.hostRead with
    | none => simp only [hr] at h; cases h
    | some p => simp only [hr] at h; cases h; exact .inr (.inl ⟨_, rfl⟩)
  | reset => cases h; exact .inr (.inr (.inr ⟨rfl, rfl⟩))
  | quiet =>
    rcases run_fetchFsm rest h with h | h
    · exact .inl h
    · exact .inr (.inr (.inl h))

/-- Everything a step can do: an instruction in the state with at most one request taken, a host access, reset, or
nothing. -/
theorem step_cases {s t : State} (h : step s = .next t) :
    ∃ rest, (rest = s.host.pending ∨ ∃ r, s.host.pending = r :: rest) ∧
      ((∃ i, exec i (s.popTo rest) = .next t) ∨ (∃ r, t = (s.popTo rest).tell r) ∨ t = s.popTo rest ∨
        (s.host.pending = .reset :: rest ∧ t = (s.popTo rest).resetBlock)) := by
  unfold step at h
  rcases hp : s.host.pending with _ | ⟨r, rest⟩
  · rw [show fetch s = fetchFsm (s.popTo s.host.pending) by simp only [fetch, hp]; rw [← hp]; rfl] at h
    refine ⟨s.host.pending, .inl hp, ?_⟩
    rcases run_fetchFsm s.host.pending h with h | h
    · exact .inl h
    · exact .inr (.inr (.inl h))
  · refine ⟨rest, .inr ⟨r, rfl⟩, ?_⟩
    by_cases hw : s.host.waiter = .stuck ∧ r.fromHost
    · rw [show fetch s = fetchFsm (s.popTo rest) by simp only [fetch, hp]; exact if_pos hw] at h
      rcases run_fetchFsm rest h with h | h
      · exact .inl h
      · exact .inr (.inr (.inl h))
    · rw [show fetch s = fetchRequest r (s.popTo rest) by simp only [fetch, hp]; exact if_neg hw] at h
      rcases run_fetchRequest h with h | h | h | ⟨he, ht⟩
      · exact .inl h
      · exact .inr (.inl h)
      · exact .inr (.inr (.inl h))
      · exact .inr (.inr (.inr ⟨by rw [he], ht⟩))

end Sys2Proof.Machine
end

