-- ==== Sys2Proof/Tests/Slice0.lean ====
section
/-! SUPPORT. Tests of one step or one function each, their expected results from the spec (95_test_vectors.md by row, or the
rule named), and a witness for the hypotheses of every obligation that has some. Frames use the vector assignment of
R75. -/

namespace Sys2Proof.Tests

open Sys2Proof Sys2Proof.Machine

/-! ### Small states -/

/-- The machine after reset with the vector ids, and what the line does before each receive call. -/
def lab (arrivals : List Arrival) : State :=
  { State.reset with cfg := Config.vector, transport := { Transport.fresh with arrivals := arrivals } }

/-- SET_LEDS 0b011 under way: TRANSCEIVE 02, [03], 5 with the host waiting. -/
def busyIn (st : St) (oc ic : BitVec 2) (arrivals : List Arrival) : State :=
  { lab arrivals with
    block := { Block.reset with cmdId := 0x02, cmdLen := 1, cmdPay := [0x03], expLen := 5, st := st, oc := oc, ic := ic }
    host := { HostSide.fresh with waiter := .setLeds } }

/-- The line brings these bytes in before the call returns. -/
def hears (bs : List Byte) : List Arrival := [⟨0, bs⟩]

def asking (r : Request) (s : State) : State := { s with host := { s.host with pending := [r] } }

def withCause (c : Cause) (s : State) : State := { s with block := { s.block with cause := c } }

/-- A transport of which only `k` more calls return. -/
def withCalls (k : Nat) (s : State) : State := { s with transport := { s.transport with callsLeft := some k } }

/-- The host is inside a transport call that does not return. -/
def stuckIn (st : St) : State := { busyIn st 1 0 [] with host := { HostSide.fresh with waiter := .stuck } }

def after (r : Result) : Option State :=
  match r with
  | .next s => some s
  | .fault _ => none
  | .refused _ => none

def stopAfter (r : Result) : Option Fault :=
  match r with
  | .next _ => none
  | .fault f => some f
  | .refused _ => none

def replyAfter (r : Result) : Option Reply := (after r).map fun s => s.host.reply

def stAfter (r : Result) : Option St := (after r).map fun s => s.block.st

def statusAfter (r : Result) : Option (BitVec 10) := (after r).map fun s => s.status

def queueAfter (r : Result) : Option (List Byte) := (after r).map fun s => s.transport.rxQueue

def callsAfter (r : Result) : Option (List Event) := (after r).map fun s => s.transport.history

def atr (p : Byte) : List Byte := [p, 0x02, 0x00, 0x00, p ^^^ 0x02]

/-! ### WellFormed smoke test: one ill-formed term for each check -/

theorem test_pay_too_long_is_illFormed : payFits (List.replicate 256 0) = false := by decide +kernel
theorem test_encode_of_256_bytes_is_illFormed :
    (Instr.encode 0 (List.replicate 256 0)).wellFormed Config.vector = false := by decide +kernel
theorem test_raw_too_long_is_illFormed :
    (Instr.decode (List.replicate 512 0)).wellFormed Config.vector = false := by decide +kernel
theorem test_call_list_too_long_is_illFormed (pay : List Byte) (h : pay.length = 65536) :
    (Instr.rfidSend pay).wellFormed Config.vector = false := by simp [Instr.wellFormed, callCountFits, h]
theorem test_named_id_is_no_firmwareId : (Instr.firmwareIds 0x03 ⟨[], 0x03⟩).wellFormed Config.vector = false := by decide
theorem test_high_id_is_no_firmwareId : (Instr.firmwareIds 0x0E ⟨[], 0x0E⟩).wellFormed Config.vector = false := by decide
theorem test_enum_id_is_no_unassignedId : (Instr.unassignedId 0x0D ⟨[], 0x0D⟩).wellFormed Config.vector = false := by
  decide
theorem test_rxError_is_no_unassignedId : (Instr.unassignedId 0xFF ⟨[], 0xFF⟩).wellFormed Config.vector = false := by
  decide

/-! ### Decoding: words written out from the encodings -/

-- OP in bits 1:0 (R81): 0b00, 0b01, 0b10, 0b11; operands ID, LEN, PAY, CNT, RAW, EXP (R82).
theorem test_decode_encode : decodeExact Config.vector .port [0b00, 0x05, 0x02, 0xDE, 0xAD] = .ok (.encode 0x05 [0xDE, 0xAD]) := by
  decide
theorem test_decode_decode : decodeExact Config.vector .port [0b01, 0x03, 0x00, 0x05, 0x00, 0x05] = .ok (.decode [0x05, 0x00, 0x05]) := by
  decide
theorem test_decode_transceive : decodeExact Config.vector .port [0b10, 0x02, 0x01, 0x03, 0xFF, 0x01] = .ok (.transceive 0x02 [0x03] 511) := by
  decide
theorem test_decode_reservedOp3 : decodeExact Config.vector .port [0b11] = .ok .reservedOp3 := by decide
theorem test_decode_unused_op_bits : decodeExact Config.vector .port [0b100] = .error .unusedBits := by decide
theorem test_decode_unused_exp_bits : decodeExact Config.vector .port [0b10, 0x02, 0x00, 0x00, 0x02] = .error .unusedBits := by
  decide
theorem test_decode_truncated : decodeExact Config.vector .port [0b00, 0x05, 0x02, 0xDE] = .error .truncated := by decide
-- ST codes (R14): IDLE 0, SENDING 1, AWAITING 2, RETRYING 3, REAWAITING 4, ESCALATING 5, SUCCESS 6, FAULTED 7.
theorem test_decode_start : decodeExact Config.vector .fsm [0b000, 0x02, 0x00, 0x05, 0x00] = .ok (.start 0x02 [] 5) := by decide
theorem test_decode_start_from_faulted : decodeExact Config.vector .fsm [0b111, 0x02, 0x00, 0x05, 0x00] = .ok (.start 0x02 [] 5) := by
  decide
theorem test_decode_send : decodeExact Config.vector .fsm [0b001] = .ok .send := by decide
theorem test_decode_recv : decodeExact Config.vector .fsm [0b010] = .ok .recv := by decide
theorem test_decode_errsend : decodeExact Config.vector .fsm [0b011] = .ok .errsend := by decide
theorem test_decode_errrecv : decodeExact Config.vector .fsm [0b100] = .ok .errrecv := by decide
theorem test_decode_escalate : decodeExact Config.vector .fsm [0b101] = .ok .escalate := by decide
-- Call numbers are the model's (notes/assumptions/12.md).
theorem test_decode_checkReset : decodeExact Config.vector .call [0] = .ok .checkReset := by decide
theorem test_decode_setLeds : decodeExact Config.vector .call [1, 0b011] = .ok (.setLeds 0b011) := by decide
theorem test_decode_beep : decodeExact Config.vector .call [2, 1, 1, 0, 0xB8, 0x01, 0x64, 0x00] = .ok (.beep [⟨440, 100⟩] true) := by
  decide
theorem test_decode_rfidSend : decodeExact Config.vector .call [3, 2, 0, 0xCA, 0xFE] = .ok (.rfidSend [0xCA, 0xFE]) := by decide
-- Frames: id, length, payload, checksum (R70); ids of R75 to R78.
theorem test_decode_frame : decodeExact Config.vector .format [0x03, 0x01, 0x07, 0x99] = .ok (.frame 0x03 ⟨[0x07], 0x99⟩) := by decide
theorem test_decode_rxError : decodeExact Config.vector .wire [0xFF, 0x00, 0xFF] = .ok (.rxError ⟨[], 0xFF⟩) := by decide
theorem test_decode_answerToReset : decodeExact Config.vector .wire [0, 2, 0, 0, 2] = .ok (.answerToReset ⟨[0, 0], 2⟩) := by decide
theorem test_decode_getStatus : decodeExact Config.vector .wire [1, 0, 1] = .ok (.getStatus ⟨[], 1⟩) := by decide
theorem test_decode_setLed : decodeExact Config.vector .wire [2, 1, 3, 0] = .ok (.setLed ⟨[3], 0⟩) := by decide
theorem test_decode_ack : decodeExact Config.vector .wire [3, 2, 0, 0, 1] = .ok (.ack ⟨[0, 0], 1⟩) := by decide
theorem test_decode_beepFrame : decodeExact Config.vector .wire [4, 1, 0, 5] = .ok (.beepFrame ⟨[0], 5⟩) := by decide
theorem test_decode_rfidSendFrame : decodeExact Config.vector .wire [5, 0, 5] = .ok (.rfidSendFrame ⟨[], 5⟩) := by decide
theorem test_decode_rfidSendComplete : decodeExact Config.vector .wire [6, 0, 6] = .ok (.rfidSendComplete ⟨[], 6⟩) := by decide
theorem test_decode_firmwareIds : decodeExact Config.vector .wire [0x0D, 0, 0x0D] = .ok (.firmwareIds 0x0D ⟨[], 0x0D⟩) := by decide
theorem test_decode_unassignedId : decodeExact Config.vector .wire [0xFE, 0, 0xFE] = .ok (.unassignedId 0xFE ⟨[], 0xFE⟩) := by decide

/-! ### The codec (95_test_vectors.md 2.1, 2.2) -/

-- E1 (R80), E13, E20's checksum.
theorem test_error_signal : errorSignal = [0xFF, 0x00, 0xFF] := by decide
theorem test_encode_E13 : encodeFrame 0x05 [0xDE, 0xAD, 0xBE, 0xEF] = [0x05, 0x04, 0xDE, 0xAD, 0xBE, 0xEF, 0x23] := by decide
theorem test_encode_E12 : encodeFrame 0x55 [0xFF, 0xFF] = [0x55, 0x02, 0xFF, 0xFF, 0x57] := by decide
-- V3 against V4, V8, V9 and V10 under both settings, V13.
theorem test_decode_V3 : decodeFrame false [0x05, 0x00] = .corrupt .tooShort := by decide
theorem test_decode_V4 : decodeFrame true [0x05, 0x00, 0x05] = .ok ⟨0x05, 0, [], 0x05⟩ := by decide
theorem test_decode_V8 : decodeFrame false [0x03, 0x02, 0x00, 0x00, 0x00] = .corrupt .checksum := by decide
theorem test_decode_V9 : decodeFrame false [0x03, 0x00, 0x00, 0x00, 0x03] = .ok ⟨0x03, 0, [0x00, 0x00], 0x03⟩ ∧
    decodeFrame true [0x03, 0x00, 0x00, 0x00, 0x03] = .corrupt .length := by decide
theorem test_decode_V14 : decodeFrame false [0x04, 0x05, 0xDE, 0xAD, 0xBE, 0xEF, 0x23] =
    .ok ⟨0x04, 5, [0xDE, 0xAD, 0xBE, 0xEF], 0x23⟩ := by decide
-- H9 and H10: the same tone in both byte orders (R163).
theorem test_beep_payload : beepPayload .big [⟨440, 100⟩] true = [0x01, 0xB8, 0x00, 0x64, 0x01] ∧
    beepPayload .little [⟨440, 100⟩] true = [0xB8, 0x01, 0x64, 0x00, 0x01] := by decide

/-! ### The command port -/

-- E4, V5, X8, X7, X9.
theorem test_exec_encode : replyAfter (exec (.encode 0x02 [0x03]) (lab [])) = some (.frame [0x02, 0x01, 0x03, 0x00]) := by decide
theorem test_exec_decode : replyAfter (exec (.decode [0x05, 0x00, 0x04]) (lab [])) = some (.error (.corruptedPacket .checksum)) := by
  decide
theorem test_exec_transceive : statusAfter (exec (.transceive 0x02 [0x03] 5) (withCause .retryExhausted (busyIn .faulted 2 2 []))) =
    some 0x001 := by decide
theorem test_exec_start_busy : replyAfter (exec (.start 0x02 [0x03] 5) (busyIn .awaiting 1 0 [])) = some .busy := by decide
theorem test_exec_reservedOp3 : replyAfter (exec .reservedOp3 (lab [])) = some .refused := by decide

/-! ### The transceiver (95_test_vectors.md 2.3, 2.4 and the programs) -/

-- P1: SEND, and RECV's Good answer with STATUS 0x08E.
theorem test_send : callsAfter (exec .send (busyIn .sending 0 0 [])) = some [.tx [0x02, 0x01, 0x03, 0x00]] := by decide
theorem test_send_counts : (after (exec .send (busyIn .sending 1 0 []))).map (fun s => s.block.oc) = some 2 := by decide
theorem test_recv_good : statusAfter (exec .recv (busyIn .awaiting 1 0 (hears (atr 0x03)))) = some 0x08E := by decide
-- X2: the three bytes that came would decode, but the read is short.
theorem test_recv_short : stAfter (exec .recv (busyIn .awaiting 1 2 (hears [0x03, 0x00, 0x03]))) = some .retrying := by decide
-- P6: Err while OC < 2 sends again; trace EE.
theorem test_recv_err_again : stAfter (exec .recv (busyIn .awaiting 1 0 (hears (atr 0xFF)))) = some .sending := by decide
theorem test_recv_err_exhausted : statusAfter (exec .recv (busyIn .awaiting 2 0 (hears (atr 0xFF)))) = some 0x115 := by decide
-- P3: the error signal.
theorem test_errsend : callsAfter (exec .errsend (busyIn .retrying 1 0 [])) = some [.tx [0xFF, 0x00, 0xFF]] := by decide
-- P4: Err to the error signal is ERROR_ECHO with budget left; P3: inner loop exhausted; trace 19.
theorem test_errrecv_echo : (after (exec .errrecv (busyIn .reawaiting 1 1 (hears (atr 0xFF))))).map (fun s => s.block.cause) =
    some .errorEcho := by decide
theorem test_errrecv_exhausted : stAfter (exec .errrecv (busyIn .reawaiting 1 2 (hears [0x03, 0x02, 0x00, 0x00, 0x00]))) = some .sending := by
  decide
theorem test_escalate : statusAfter (exec .escalate (withCause .retryExhausted (busyIn .escalating 2 2 []))) = some 0x157 := by decide

/-! ### The host layer (95_test_vectors.md 2.5) -/

-- H6, P5, H4.
theorem test_checkReset_short : replyAfter (exec .checkReset (lab [⟨0, [1, 2, 3, 4, 5]⟩, ⟨2, []⟩])) =
    some (.error (.readerFault .resetDrainTimeout)) := by decide
theorem test_checkReset_reset : replyAfter (exec .checkReset (lab [⟨0, [0x00, 0x02, 0x00, 0x00, 0x02]⟩, ⟨0, []⟩])) =
    some (.error .deviceResetDetected) := by decide
theorem test_setLeds_starts : (after (exec (.setLeds 0b011) (lab (hears [1, 2, 3, 4])))).map
    (fun s => (s.block.command, s.transport.rxQueue.length)) = some ((0x02, 1, [0x03], 5), 4) := by decide
-- H3.
theorem test_setLeds_wrong_id : replyAfter (exec .recv (busyIn .awaiting 1 0 (hears (atr 0x06)))) =
    some (.error (.readerFault .unexpectedResponseId)) := by decide
-- H11, S3.
theorem test_beep_starts : (after (exec (.beep [⟨1000, 200⟩, ⟨2000, 300⟩] false) (lab (hears [])))).map (fun s => s.block.cmdPay) =
    some [0x03, 0xE8, 0x00, 0xC8, 0x07, 0xD0, 0x01, 0x2C, 0x00] := by decide
theorem test_beep_nine_tones : replyAfter (exec (.beep (List.replicate 9 ⟨1, 1⟩) false) (lab [])) =
    some (.error .validationError) := by decide
-- H16, S4.
theorem test_rfidSend_starts : (after (exec (.rfidSend [0xDE, 0xAD, 0xBE, 0xEF]) (lab (hears [])))).map (fun s => s.block.expLen) =
    some 7 := by decide
theorem test_rfidSend_too_long : replyAfter (exec (.rfidSend (List.replicate 129 0xA5)) (lab [])) =
    some (.error .validationError) := by decide +kernel

/-! ### Frames on the wire: the bytes come in behind what waits (R23a, R70) -/

theorem test_exec_frame : queueAfter (exec (.frame 0x03 ⟨[0x07], 0x99⟩) (lab [])) = some [0x03, 0x01, 0x07, 0x99] := by decide
theorem test_exec_rxError : queueAfter (exec (.rxError ⟨[], 0xFF⟩) (lab [])) = some [0xFF, 0x00, 0xFF] := by decide
theorem test_exec_answerToReset : queueAfter (exec (.answerToReset ⟨[0, 0], 2⟩) (lab [])) = some [0, 2, 0, 0, 2] := by decide
theorem test_exec_getStatus : queueAfter (exec (.getStatus ⟨[], 1⟩) (lab [])) = some [1, 0, 1] := by decide
theorem test_exec_setLed : queueAfter (exec (.setLed ⟨[3], 0⟩) (lab [])) = some [2, 1, 3, 0] := by decide
theorem test_exec_ack : queueAfter (exec (.ack ⟨[0, 0], 1⟩) (lab [])) = some [3, 2, 0, 0, 1] := by decide
theorem test_exec_beepFrame : queueAfter (exec (.beepFrame ⟨[0], 5⟩) (lab [])) = some [4, 1, 0, 5] := by decide
theorem test_exec_rfidSendFrame : queueAfter (exec (.rfidSendFrame ⟨[], 5⟩) (lab [])) = some [5, 0, 5] := by decide
theorem test_exec_rfidSendComplete : queueAfter (exec (.rfidSendComplete ⟨[], 6⟩) (lab [])) = some [6, 0, 6] := by decide
theorem test_exec_firmwareIds : queueAfter (exec (.firmwareIds 0x0D ⟨[], 0x0D⟩) (lab [])) = some [0x0D, 0, 0x0D] := by decide
theorem test_exec_unassignedId : queueAfter (exec (.unassignedId 0xFE ⟨[], 0xFE⟩) (lab [])) = some [0xFE, 0, 0xFE] := by decide

/-! ### Host accesses -/

theorem test_read_status : replyAfter (step (asking .readStatus (busyIn .sending 1 0 []))) = some (.status 0x009) := by decide
theorem test_reset_request : statusAfter (step (asking .reset (busyIn .reawaiting 2 1 []))) = some 0 := by decide
-- R220: a reset is taken while CHECK_RESET hangs; a stuck host's own request is not (U15).
theorem test_reset_frees_a_stuck_host :
    (after (step (asking .reset (stuckIn .awaiting)))).map (fun s => (s.block.st, s.host.waiter)) = some (.idle, .nobody) := by decide
theorem test_stuck_host_makes_no_request :
    (after (step (asking .readStatus (stuckIn .idle)))).map (fun s => s.host.reply) = some .none := by decide
-- The reset values (notes/assumptions/5.md), and R22's fault once START has invalidated the result registers.
theorem test_read_result_after_reset : replyAfter (step (asking .readResult (lab []))) = some (.packet ⟨0, 0, [], 0⟩) := by decide
theorem test_read_result_while_sending : stopAfter (step (asking .readResult (busyIn .sending 0 0 []))) = some .noValue := by decide
theorem test_quiet_runs_the_fsm : stAfter (step (asking .quiet (busyIn .retrying 1 0 []))) = some .reawaiting := by decide

/-! ### Witnesses: states and operands that meet the hypotheses of the obligations -/

theorem witness_EncodeThenDecodeIsIdentity : Config.vector.Wf ∧
    (Instr.transceive 0xFF [0x00, 0xFF] 511).wellFormed Config.vector = true := by decide
theorem witness_DecodedInstrIsWellFormed :
    decode Config.vector .wire [0x0E, 0x00, 0x0E, 0x55] = .ok (.unassignedId 0x0E ⟨[], 0x0E⟩, [0x55]) := by decide
theorem witness_StepRunsPresentedInstr :
    let s := asking (.present .port [0b11]) (busyIn .awaiting 1 0 [])
    s.host.waiter ≠ .stuck ∧ s.host.pending = [.present .port [0b11]] ∧ decodeExact s.cfg .port [0b11] = .ok .reservedOp3 := by
  decide
theorem witness_StepRunsPresentedInstr_frame_while_stuck :
    let s := asking (.present .wire [0x03, 0x00, 0x03]) (stuckIn .idle)
    s.host.waiter = .stuck ∧ s.host.pending = [.present .wire [0x03, 0x00, 0x03]] ∧
      decodeExact s.cfg .wire [0x03, 0x00, 0x03] = .ok (.ack ⟨[], 0x03⟩) := by decide
theorem witness_StepRunsStepOfSt_taken : (asking .quiet (busyIn .sending 0 0 [])).host.pending = [.quiet] ∧
    (busyIn .sending 0 0 []).block.st.instr = some .send ∧ (asking .quiet (lab [])).block.st.instr = none ∧
    (asking (.present .call [0]) (stuckIn .sending)).host.waiter = .stuck ∧
    (asking (.present .call [0]) (stuckIn .sending)).host.pending = [.present .call [0]] ∧
    (Request.present .call [0]).fromHost = true := by decide
theorem witness_StepRunsStepOfSt : (busyIn .escalating 2 2 []).host.pending = [] ∧
    (busyIn .escalating 2 2 []).block.st.instr = some .escalate ∧ (busyIn .faulted 2 2 []).block.st.instr = none := by decide
theorem witness_ChecksumIsXorOfAllBytes : List.Perm [(1 : Byte), 2, 3] [3, 1, 2] := by decide
theorem witness_EncodedFrameIsSound : (List.replicate 255 (0 : Byte)).length ≤ 255 := by decide +kernel
theorem witness_CodecRoundTrip : ([] : List Byte).length ≤ 255 := by decide
theorem witness_SingleBitFlipIsDetected :
    decodeFrame true [0x05, 0x00, 0x05] = .ok ⟨0x05, 0, [], 0x05⟩ ∧ 2 < [(0x05 : Byte), 0x00, 0x05].length ∧ 7 < 8 := by decide
theorem witness_SingleBitFlipIsDetected_patterns :
    [(0x81 : Byte), 0x80, 0x80].length = [(0x05 : Byte), 0x00, 0x05].length ∧
    [(0x81 : Byte), 0x80, 0x80].countP (fun b => b.getLsbD 7) % 2 = 1 := by decide
theorem witness_EvenFlipsAreUndetected : decodeFrame false [0x05, 0x00, 0x05] = .ok ⟨0x05, 0, [], 0x05⟩ ∧
    List.Perm [(0x00 : Byte), 0x05, 0x05] [0x05, 0x00, 0x05] := by decide
theorem witness_EvenFlipsAreUndetected_patterns (j : Nat) : [(0x80 : Byte), 0x80, 0x00].countP (fun b => b.getLsbD j) % 2 = 0 := by
  by_cases h : (0x80 : Byte).getLsbD j = true <;> simp [List.countP_cons] at h ⊢ <;> simp [h]
theorem witness_AcceptanceIsZeroSum : 3 ≤ [(0x05 : Byte), 0x00, 0x05].length := by decide
theorem witness_DecodeChecksInOrder : [(0x05 : Byte), 0x00].length < 3 ∧ (0x01 : Byte).toNat ≠ ([] : List Byte).length ∧
    (0x05 : Byte) ^^^ 0x00 ^^^ ([] : List Byte).foldl (fun a b => a ^^^ b) 0 = 0x05 := by decide
theorem witness_ReadIsClassified : decodeFrame false [0xFF, 0x00, 0xFF] = .ok ⟨0xFF, 0, [], 0xFF⟩ ∧
    decodeFrame false [0x03, 0x00, 0x03] = .ok ⟨0x03, 0, [], 0x03⟩ ∧ decodeFrame false [0x03, 0x03] = .corrupt .tooShort ∧
    [(0x03 : Byte), 0x00, 0x03].length < 5 ∧ 3 ≤ [(0x03 : Byte), 0x00, 0x03].length := by decide
theorem witness_EncodeCompletes : (List.replicate 255 (0xA5 : Byte)).length ≤ 255 := by decide +kernel
theorem witness_DecodeCompletes : [(0x05 : Byte), 0x00].length < 3 ∧ (List.replicate 508 (0 : Byte)).length ≤ 508 := by decide +kernel
theorem witness_StartLatchesTheCommand : (List.replicate 255 (0 : Byte)).length ≤ 255 ∧ (lab []).block.st = .idle ∧
    (busyIn .success 1 0 []).block.st = .success ∧ (busyIn .faulted 2 2 []).block.st = .faulted := by decide +kernel
theorem witness_BusyStartIsRefused : ([] : List Byte).length ≤ 255 ∧ (busyIn .escalating 2 2 []).block.st = .escalating ∧
    (busyIn .sending 0 0 []).block.st = .sending ∧ ([] : List Byte).length ≤ 511 := by decide
theorem witness_TooWideOperandsAreNotExpressible : 255 < (List.replicate 256 (0 : Byte)).length ∧
    511 < (List.replicate 512 (0 : Byte)).length ∧ 255 < (FrameBody.mk (List.replicate 256 0) 0).payload.length := by decide +kernel
theorem witness_SendTransmitsTheCommand :
    let s := withCalls 1 (busyIn .sending 1 2 [])
    s.block.st = .sending ∧ s.block.cmdPay.length = s.block.cmdLen.toNat ∧ s.transport.callsLeft ≠ some 0 := by decide
theorem witness_ErrsendTransmitsTheSignal :
    (busyIn .retrying 2 1 []).block.st = .retrying ∧ (busyIn .retrying 2 1 []).transport.callsLeft ≠ some 0 := by decide

/-- The answer that the next read of `s` gives, classed. -/
def nextClass (s : State) : Option RxClass :=
  (s.transport.read s.block.expLen.toNat).map fun x => rxClass s.cfg.lenCheck x.1 s.block.expLen.toNat

theorem witness_RecvClassifiesTheResponse :
    (busyIn .awaiting 1 0 []).block.st = .awaiting ∧ (busyIn .awaiting 1 0 []).transport.callsLeft ≠ some 0 ∧
    nextClass (busyIn .awaiting 1 0 (hears (atr 0x03))) = some (.good ⟨0x03, 2, [0, 0], 0x01⟩) ∧
    nextClass (busyIn .awaiting 1 0 (hears (atr 0xFF))) = some .err ∧ (busyIn .awaiting 1 0 []).block.oc < 2 ∧
    ¬ (busyIn .awaiting 2 0 []).block.oc < 2 ∧ nextClass (busyIn .awaiting 2 0 (hears [])) = some .fail := by decide
theorem witness_ErrrecvClassifiesTheResponse :
    (busyIn .reawaiting 1 1 []).block.st = .reawaiting ∧ (busyIn .reawaiting 1 1 []).transport.callsLeft ≠ some 0 ∧
    nextClass (busyIn .reawaiting 2 2 (hears (atr 0x03))) = some (.good ⟨0x03, 2, [0, 0], 0x01⟩) ∧
    nextClass (busyIn .reawaiting 1 1 (hears (atr 0xFF))) = some .err ∧
    nextClass (busyIn .reawaiting 2 2 (hears [])) = some .fail ∧ (busyIn .reawaiting 1 1 []).block.ic < 2 ∧
    ¬ (busyIn .reawaiting 2 2 []).block.ic < 2 := by decide
theorem witness_EscalateEntersFaulted : (busyIn .escalating 1 1 []).block.st = .escalating := by decide
theorem witness_UnselectedStepsDoNotFire : (busyIn .sending 0 0 []).block.st.instr ≠ some .recv := by decide
theorem witness_HangingTransportHoldsTheMachine :
    let s := withCalls 0 (busyIn .reawaiting 1 1 [])
    s.transport.callsLeft = some 0 ∧ s.block.st = .reawaiting ∧
      s.host.pending = [] := by decide
theorem witness_FaultEntryWritesCauseAndStOnly :
    stAfter (exec .errrecv (busyIn .reawaiting 1 1 (hears (atr 0xFF)))) = some .escalating ∧
    stAfter (exec .escalate (withCause .errorEcho (busyIn .escalating 1 1 []))) = some .faulted := by decide
theorem witness_SuccessTellsTheWaitingProcedure :
    stAfter (exec .recv (busyIn .awaiting 1 0 (hears (atr 0x03)))) = some .success ∧
    (busyIn .awaiting 1 0 []).block.st ≠ .success ∧ (busyIn .awaiting 1 0 []).host.waiter = .setLeds ∧
    (after (exec .recv (busyIn .awaiting 1 0 (hears (atr 0x03))))).map (fun s => s.result) =
      some (some ⟨0x03, 2, [0, 0], 0x01⟩) := by decide
theorem witness_FaultTellsTheWaitingProcedure :
    (busyIn .escalating 1 1 []).host.waiter = .setLeds ∧
    (withCause .errorEcho (busyIn .escalating 1 1 [])).block.cause = .errorEcho ∧
    (withCause .retryExhausted (busyIn .escalating 2 2 [])).block.cause = .retryExhausted := by decide

/-- How many bytes RxWaiting counts, and how many a read of five then brings. -/
def waitsThenReads (t : Transport) : Option (Nat × Option Nat) :=
  t.waiting.map fun x => (x.1, (x.2.read 5).map fun y => y.1.length)

theorem witness_CheckResetTestsForFive :
    waitsThenReads (lab [⟨0, [1, 2, 3, 4]⟩, ⟨0, []⟩]).transport = some (4, some 4) ∧
    waitsThenReads (lab [⟨0, [1, 2, 3, 4, 5, 6]⟩, ⟨0, []⟩]).transport = some (6, some 5) ∧
    waitsThenReads (lab [⟨0, [1, 2, 3, 4, 5]⟩, ⟨1, []⟩]).transport = some (5, some 4) ∧
    waitsThenReads (lab [⟨0, [1, 2, 3, 4, 5]⟩, ⟨0, []⟩]).transport = some (5, some 5) := by decide
theorem witness_HangingTransportHoldsTheHost : waitsThenReads (withCalls 0 (lab [])).transport = none ∧
    waitsThenReads (withCalls 1 (lab [⟨0, [1, 2, 3, 4, 5]⟩])).transport = some (5, none) ∧ (7 : Byte) ≤ 7 := by decide
theorem witness_SetLedsStartsItsTransaction : (7 : Byte) ≤ 7 ∧
    (lab (hears [])).transport.waiting.map (fun x => x.1) = some 0 ∧ (lab []).block.st = .idle := by decide
theorem witness_BeepStartsItsTransaction : (List.replicate 8 (Tone.mk 440 100)).length ≤ 8 ∧
    (lab (hears [1])).transport.waiting.map (fun x => x.1) = some 1 ∧ (busyIn .success 1 0 []).block.st = .success := by decide
theorem witness_RfidSendStartsItsTransaction : (List.replicate 128 (0xA5 : Byte)).length ≤ 128 ∧
    (lab (hears [])).transport.waiting.map (fun x => x.1) = some 0 ∧ (busyIn .faulted 2 2 []).block.st = .faulted := by decide +kernel
theorem witness_ValidationErrorTouchesNothing : 8 < (List.replicate 9 (Tone.mk 1 1)).length ∧
    128 < (List.replicate 129 (0xA5 : Byte)).length := by decide +kernel
theorem witness_WideMaskIsAValidationError : (7 : Byte) < 8 ∧ (7 : Byte) < 0xFF := by decide
theorem witness_CommandsStopAtTheFirstFailure :
    waitsThenReads (lab [⟨0, [1, 2, 3, 4, 5]⟩, ⟨0, []⟩]).transport = some (5, some 5) ∧ (7 : Byte) ≤ 7 ∧
    waitsThenReads (busyIn .awaiting 1 0 [⟨0, []⟩, ⟨0, []⟩]).transport = some (0, some 0) ∧
    (busyIn .awaiting 1 0 []).block.st = .awaiting := by decide
theorem witness_FrameRowsFillTheReceiveQueue : (FrameBody.mk (List.replicate 255 0) 0).payload.length ≤ 255 := by decide +kernel
theorem witness_ArrivedFrameAnswersTheRead :
    let s := busyIn .awaiting 1 0 [⟨0, []⟩]
    s.block.st = .awaiting ∧ s.transport.rxQueue = [] ∧ s.transport.callsLeft ≠ some 0 ∧ s.transport.arrivals = ⟨0, []⟩ :: [] ∧
      [(0 : Byte), 0].length ≤ 255 ∧ s.block.expLen.toNat = [(0 : Byte), 0].length + 3 ∧
      (0x01 : Byte) = 0x03 ^^^ BitVec.ofNat 8 2 ^^^ [(0 : Byte), 0].foldl (fun a b => a ^^^ b) 0 ∧
      (0xFD : Byte) = 0xFF ^^^ BitVec.ofNat 8 2 ^^^ [(0 : Byte), 0].foldl (fun a b => a ^^^ b) 0 ∧
      s.block.oc < 2 ∧ ¬ (busyIn .awaiting 2 0 [⟨0, []⟩]).block.oc < 2 := by decide
theorem witness_ReadTakesTheFrontOfTheQueue :
    ((lab []).transport.read 0).isSome = true ∧
    ((lab (hears [1, 2, 3])).transport.read 5).map (fun x => x.1) = some [1, 2, 3] ∧
    ((lab (hears [1, 2, 3])).transport.read 2).map (fun x => (x.1, x.2.rxQueue)) = some ([1, 2], [3]) := by decide
theorem witness_TransportAnswersAreFree : (lab []).transport.callsLeft ≠ some 0 ∧ [(1 : Byte), 2].length ≤ 2 := by decide
theorem witness_WaitingCountsTheQueue : (lab (hears [1, 2])).transport.waiting.map (fun x => x.1) = some 2 := by decide
theorem witness_StepKeepsGoodStates : (busyIn .awaiting 1 0 (hears (atr 0x03))).Good ∧
    (after (step (busyIn .awaiting 1 0 (hears (atr 0x03))))).isSome = true := by decide
theorem witness_StepKeepsGoodStates_escalates :
    (withCause .retryExhausted (busyIn .escalating 2 2 [])).Good ∧
    (after (step (withCause .retryExhausted (busyIn .escalating 2 2 [])))).isSome = true := by decide
theorem witness_ResetLeavesIdle : (asking .reset (stuckIn .sending)).host.waiter = .stuck ∧
    (asking .reset (stuckIn .sending)).host.pending = [.reset] := by decide
theorem witness_StatusIsAViewOfTheFlags : (asking .readStatus (lab [])).host.waiter ≠ .stuck ∧
    (asking .readStatus (lab [])).host.pending = [.readStatus] := by decide
theorem witness_ResultIsReadOnlyWhenValid : (asking .readResult (lab [])).host.waiter ≠ .stuck ∧
    (asking .readResult (lab [])).host.pending = [.readResult] ∧ (busyIn .faulted 2 2 []).block.resValid = false ∧
    (busyIn .faulted 2 2 []).block.st ≠ .idle ∧
    (Block.succeed ⟨3, 2, [0, 0], 1⟩ (lab []).block).resValid = true := by decide
theorem witness_ResultReadAfterResetGivesResetValues : (asking .readResult (lab [])).host.waiter ≠ .stuck ∧
    (asking .readResult (lab [])).host.pending = [.readResult] ∧ (lab []).block.st = .idle ∧
    ({ lab [] with host := { HostSide.fresh with pending := [.reset, .readResult] } } : State).host.pending =
      [.reset, .readResult] := by decide
theorem witness_ConfigIsFixedAndHistoryGrows :
    (callsAfter (step (asking (.present .call [0]) (lab [⟨0, [1, 2, 3, 4, 5]⟩, ⟨0, []⟩])))).map (fun h => h.length) = some 2 := by decide
theorem witness_CommandRegistersAreWrittenByStartOnly :
    (after (step (asking (.present .call [1, 0b011]) (lab (hears []))))).map (fun s => s.block.command) = some (0x02, 1, [0x03], 5) := by
  decide
theorem witness_ResultRegistersAreWrittenBySuccessOnly :
    (after (step (busyIn .awaiting 1 0 (hears (atr 0x03))))).map (fun s => s.block.results) = some (0x03, 2, 2, [0, 0], 0x01) := by decide
theorem witness_TransitionsOfStAreTheTable :
    stAfter (step (asking (.present .port [0b10, 2, 0, 5, 0]) (lab []))) = some .sending ∧
    stAfter (step (busyIn .sending 0 0 [])) = some .awaiting ∧
    stAfter (step (busyIn .awaiting 1 0 (hears []))) = some .retrying ∧
    stAfter (step (busyIn .retrying 1 0 [])) = some .reawaiting ∧
    stAfter (step (busyIn .reawaiting 1 1 (hears []))) = some .retrying ∧
    stAfter (step (busyIn .escalating 2 2 [])) = some .faulted := by decide
theorem witness_OpenIdsDoNotReachTheBlock :
    ({ Config.vector with idAck := 0x0D } : Config).lenCheck = (busyIn .awaiting 1 0 []).cfg.lenCheck ∧
    (after (exec .recv (busyIn .awaiting 1 0 (hears (atr 0x03))))).isSome = true ∧
    (after (exec (.encode 0x02 [0x03]) (busyIn .awaiting 1 0 []))).isSome = true ∧
    Instr.encode 0x02 [0x03] ≠ .recv ∧ Instr.encode 0x02 [0x03] ≠ .errrecv := by decide
theorem witness_TransceiveEndsWithinItsBounds : [(0x03 : Byte)].length ≤ 255 ∧ (lab []).block.accepts = true ∧
    (lab []).host.pending = [] ∧ (lab []).transport.KeepsContract := by decide
theorem witness_StepsRefineTheReferenceAlgorithm : [(0x07 : Byte)].length ≤ 255 ∧ (busyIn .faulted 2 2 []).block.accepts = true ∧
    (busyIn .faulted 2 2 []).host.pending = [] ∧ (busyIn .faulted 2 2 []).transport.KeepsContract := by decide
theorem witness_TooShortExpectationExhaustsTheBudget : [(0x03 : Byte)].length ≤ 255 ∧ (2 : BitVec 9).toNat < 3 ∧
    (lab []).block.accepts = true ∧ (lab []).host.pending = [] ∧ (lab []).transport.KeepsContract := by decide

/-! ### The host's table words, as the first instruction after reset -/

theorem test_tableWord_op : decodeTableWord 2 0b11 = some .reservedOp3 ∧ decodeTableWord 3 0b011 = some .errsend := by decide
theorem test_tableWord_frame : decodeTableWord 8 0xFF = some (.rxError ⟨[], 0x00⟩) := by decide
theorem test_fetchWord_op3 : replyAfter (step (State.reset.withFetchWord 2 0b11)) = some .refused := by decide
theorem test_fetchWord_rxError : queueAfter (step (State.reset.withFetchWord 8 0xFF)) = some [0xFF, 0x00, 0x00] := by decide
theorem test_fetchWord_send : stAfter (step (State.reset.withFetchWord 3 0b001)) = some .awaiting := by decide

end Sys2Proof.Tests
end

