-- ==== Sys2Proof/Proofs/Status.lean ====
section
/-! SUPPORT. STATUS (R19): what each of its fields holds, and the host access that reads it. -/

namespace Sys2Proof.Machine

open Sys2Proof

/-! ### The fields of STATUS (R19) -/

/-- Below RES_VALID and CAUSE stand IC, OC and ST. -/
theorem Block.status_extract_low (b : Block) {start len : Nat} (h : start + len ≤ 7) :
    b.status.extractLsb' start len = (b.ic ++ (b.oc ++ b.st.code)).extractLsb' start len :=
  (BitVec.extractLsb'_append_eq_of_add_le (Nat.le_succ_of_le h)).trans (BitVec.extractLsb'_append_eq_of_add_le h)

theorem Block.status_extract_st (b : Block) : b.status.extractLsb' 0 3 = b.st.code := by
  rw [b.status_extract_low (by decide), BitVec.extractLsb'_append_eq_of_add_le (by decide),
    BitVec.extractLsb'_append_eq_right]

theorem Block.status_extract_oc (b : Block) : b.status.extractLsb' 3 2 = b.oc := by
  rw [b.status_extract_low (by decide), BitVec.extractLsb'_append_eq_of_add_le (by decide),
    BitVec.extractLsb'_append_eq_left]

theorem Block.status_extract_ic (b : Block) : b.status.extractLsb' 5 2 = b.ic := by
  rw [b.status_extract_low (by decide)]
  exact BitVec.extractLsb'_append_eq_left

theorem Block.status_bit_resValid (b : Block) : b.status.getLsbD 7 = b.resValid := by
  have below_cause : b.status.getLsbD 7 = (BitVec.ofBool b.resValid ++ (b.ic ++ (b.oc ++ b.st.code))).getLsbD 7 :=
    BitVec.getLsbD_append
  rw [below_cause, BitVec.getLsbD_append]
  simp

theorem Block.status_extract_cause (b : Block) : b.status.extractLsb' 8 2 = b.cause.code :=
  BitVec.extractLsb'_append_eq_left

/-! ### The request at the head of the list -/

/-- A host that is not stuck has its first request taken and answered. -/
theorem fetch_of_pending {s : State} {r : Request} {rest : List Request} (hw : s.host.waiter ≠ .stuck)
    (hp : s.host.pending = r :: rest) : fetch s = fetchRequest r (s.popTo rest) := by
  simp [fetch, hp, hw]

/-- Reading STATUS (R19) tells the host the view of the block and does nothing else. -/
theorem step_readStatus {s : State} {rest : List Request} (hw : s.host.waiter ≠ .stuck)
    (hp : s.host.pending = .readStatus :: rest) : step s = .next ((s.popTo rest).tell (.status s.status)) := by
  rw [step, fetch_of_pending hw hp]
  rfl

/-- Settles O46: each field is cut out of the concatenation that STATUS is, and the step of a read is `step_readStatus`. -/
theorem statusIsAViewOfTheFlags : Obligations.StatusIsAViewOfTheFlags :=
  ⟨fun b => ⟨b.status_extract_st, b.status_extract_oc, b.status_extract_ic, b.status_bit_resValid,
      b.status_extract_cause⟩,
    fun _ _ hw hp => step_readStatus hw hp⟩

end Sys2Proof.Machine
end

