-- ==== Sys2Proof/Proofs/ReservedOp.lean ====
section
/-! SUPPORT. RESERVED_OP3 (R88): the refusal is its whole effect. -/

namespace Sys2Proof.Machine

open Sys2Proof

/-- The reserved code of OP (R88) only tells the host. -/
@[simp] theorem exec_reservedOp3 (s : State) : exec .reservedOp3 s = .next (s.tell .refused) := rfl

/-- Settles O18: the step is `exec_reservedOp3`, and telling the host writes its reply and no other field. -/
theorem reservedOpIsRefused : Obligations.ReservedOpIsRefused :=
  fun s => exec_reservedOp3 s

end Sys2Proof.Machine
end

