-- ==== Sys2Proof/Proofs/Codec.lean ====
section
/-! SUPPORT. The codec (R100 to R105): CHECKSUM as a fold and as parities, DECODE's checks in order, and the two
operations of the command port that run them. -/

namespace Sys2Proof.Machine

open Sys2Proof

/-! ### CHECKSUM (R100) -/

theorem checksum_eq_foldl (bs : List Byte) : checksum bs = bs.foldl (fun a b => a ^^^ b) 0 := by
  rw [foldl_xor_eq]
  exact BitVec.zero_xor.symm

theorem checksum_perm {bs cs : List Byte} (h : bs.Perm cs) : checksum bs = checksum cs := by
  induction h with
  | nil => rfl
  | cons b _ ih => rw [checksum_cons, checksum_cons, ih]
  | swap a b bs => simp only [checksum_cons, ← BitVec.xor_assoc, BitVec.xor_comm b a]
  | trans _ _ ih₁ ih₂ => exact ih₁.trans ih₂

/-- A byte with bit `k` set turns the parity of that bit, any other byte keeps it. -/
theorem checksum_getLsbD (bs : List Byte) (k : Nat) :
    (checksum bs).getLsbD k = decide (bs.countP (fun b => b.getLsbD k) % 2 = 1) := by
  induction bs with
  | nil => simp
  | cons b bs ih =>
    rw [checksum_cons, BitVec.getLsbD_xor, ih]
    cases hb : b.getLsbD k with
    | false => rw [List.countP_cons_of_neg (by simp [hb]), Bool.false_xor]
    | true =>
      rw [List.countP_cons_of_pos (p := fun b : Byte => b.getLsbD k) hb, Bool.true_xor, ← decide_not]
      exact decide_eq_decide.mpr (by omega)

/-- Settles O6: the fold is `foldl_xor_eq` from 0x00; the other two parts are inductions on the permutation and on the
bytes. -/
theorem checksumIsXorOfAllBytes : Obligations.ChecksumIsXorOfAllBytes :=
  ⟨checksum_eq_foldl, fun _ _ h => checksum_perm h, checksum_getLsbD⟩

/-! ### DECODE's checks (R104, R105) -/

/-- The length test, when it is on, comes before the checksum test. -/
theorem decodeFrame_checks (lenCheck : Bool) (id len cs : Byte) (pay : List Byte) :
    decodeFrame lenCheck ([id, len] ++ pay ++ [cs]) =
      if lenCheck = true ∧ len.toNat ≠ pay.length then .corrupt .length
      else if id ^^^ len ^^^ pay.foldl (fun a b => a ^^^ b) 0 = cs then .ok ⟨id, len, pay, cs⟩
      else .corrupt .checksum := by
  rw [decodeFrame_parts, decodeParts, ite_not, checksum_eq_foldl]

/-- Settles O12: below three bytes it is `decodeFrame_short`, from three bytes on `decodeFrame_checks`. -/
theorem decodeChecksInOrder : Obligations.DecodeChecksInOrder :=
  ⟨fun lenCheck _ h => decodeFrame_short lenCheck h, decodeFrame_checks⟩

/-! ### ENCODE and DECODE on the command port (R81, R135) -/

/-- A payload that the port carries has its frame told to the host. -/
theorem exec_encode (s : State) (id : Byte) {pay : List Byte} (h : pay.length ≤ 255) :
    exec (.encode id pay) s = .next (s.tell (.frame (encodeFrame id pay))) :=
  if_pos (decide_eq_true h)

/-- Input that the port carries has its decoding told to the host. -/
theorem exec_decode (s : State) {raw : List Byte} (h : raw.length ≤ 511) :
    exec (.decode raw) s = .next (s.tell (decodedReply (decodeFrame s.cfg.lenCheck raw))) :=
  if_pos (decide_eq_true h)

/-- Settles O14: `exec_encode` tells the frame, and `encodeFrame_eq` writes its parts side by side. -/
theorem encodeCompletes : Obligations.EncodeCompletes := by
  intro s id pay h
  rw [exec_encode s id h, encodeFrame_eq, checksum_eq_foldl]
  rfl

/-- Settles O15: `exec_decode` tells what `decodeFrame` answers, which is TOO_SHORT below three bytes and the chain of
`decodeFrame_checks` from there on. -/
theorem decodeCompletes : Obligations.DecodeCompletes := by
  constructor
  · intro s raw h
    rw [exec_decode s (by omega), decodeFrame_short s.cfg.lenCheck h]
    rfl
  · intro s id len cs pay h
    have fits : ([id, len] ++ pay ++ [cs]).length ≤ 511 := by simp; omega
    rw [exec_decode s fits, decodeFrame_checks, apply_ite decodedReply, apply_ite decodedReply]
    rfl

end Sys2Proof.Machine
end

