-- ==== Sys2Proof/Proofs/Start.lean ====
section
/-! SUPPORT. START (R121) and TRANSCEIVE, which fires it: accepted in the resting states, BUSY elsewhere (R135). -/

namespace Sys2Proof.Machine

open Sys2Proof

/-- The states that refuse START are the five in which a transaction runs (R135). -/
theorem Block.accepts_eq_false_iff (b : Block) :
    b.accepts = false ↔
      b.st = .sending ∨ b.st = .awaiting ∨ b.st = .retrying ∨ b.st = .reawaiting ∨ b.st = .escalating := by
  cases hst : b.st <;> simp [Block.accepts, hst]

theorem State.startOrBusy_of_accepts {s : State} (w : Waiter) (id : Byte) (pay : List Byte) (exp : BitVec 9)
    (h : s.block.accepts = true) :
    s.startOrBusy w id pay exp =
      { s with block := s.block.start id pay exp, host := { s.host with waiter := w, reply := .started } } :=
  if_pos h

theorem State.startOrBusy_of_busy {s : State} (w : Waiter) (id : Byte) (pay : List Byte) (exp : BitVec 9)
    (h : s.block.accepts = false) :
    s.startOrBusy w id pay exp = { s with host := { s.host with reply := .busy } } :=
  if_neg (Bool.eq_false_iff.mp h)

/-- With a payload that the port carries, START and TRANSCEIVE are the same move: START, or BUSY. -/
theorem exec_start_or_transceive (s : State) {i : Instr} {id : Byte} {pay : List Byte} {exp : BitVec 9}
    (hpay : pay.length ≤ 255) (hi : i = .start id pay exp ∨ i = .transceive id pay exp) :
    exec i s = .next (s.startOrBusy .transceive id pay exp) := by
  rcases hi with rfl | rfl
  · exact if_pos (decide_eq_true hpay)
  · exact if_pos (decide_eq_true hpay)

/-- Settles O16: IDLE, SUCCESS and FAULTED accept, and what START then writes is `Block.start`. -/
theorem startLatchesTheCommand : Obligations.StartLatchesTheCommand := by
  intro s id pay exp hpay hst i hi
  rw [exec_start_or_transceive s hpay hi, State.startOrBusy_of_accepts _ _ _ _ (s.block.accepts_iff.mpr hst)]
  exact ⟨_, rfl, rfl, rfl, rfl, rfl⟩

/-- Settles O17: the five busy states do not accept; ENCODE and DECODE do not ask for ST. -/
theorem busyStartIsRefused : Obligations.BusyStartIsRefused := by
  constructor
  · intro s id pay exp hpay hst i hi
    rw [exec_start_or_transceive s hpay hi,
      State.startOrBusy_of_busy _ _ _ _ (s.block.accepts_eq_false_iff.mpr hst)]
  · rintro s i (⟨id, pay, hpay, rfl⟩ | ⟨raw, hraw, rfl⟩)
    · exact ⟨_, exec_encode s id hpay⟩
    · exact ⟨_, exec_decode s hraw⟩

end Sys2Proof.Machine
end

