-- ==== Sys2Proof/Proofs/Transceiver.lean ====
section
/-! SUPPORT. RXCLASS (R123) and the five steps of the transceiver in the state that enables them, with a transport whose
call returns (R122, R124 to R127). -/

namespace Sys2Proof.Machine

open Sys2Proof

/-! ### RXCLASS (R123) -/

theorem rxClass_of_short (lenCheck : Bool) {r : List Byte} {n : Nat} (h : r.length < n) :
    rxClass lenCheck r n = .fail :=
  if_pos h

/-- A read that did not come up short is classed by its decoding. -/
theorem rxClass_of_corrupt {lenCheck : Bool} {r : List Byte} {n : Nat} {c : SubCause} (h : n ≤ r.length)
    (hd : decodeFrame lenCheck r = .corrupt c) : rxClass lenCheck r n = .fail := by
  rw [rxClass, if_neg (Nat.not_lt.mpr h), hd]

theorem rxClass_of_ok {lenCheck : Bool} {r : List Byte} {n : Nat} {p : Packet} (h : n ≤ r.length)
    (hd : decodeFrame lenCheck r = .ok p) :
    rxClass lenCheck r n = if p.id = Config.idRxError then .err else .good p := by
  rw [rxClass, if_neg (Nat.not_lt.mpr h), hd]

/-- Settles O13: a short read is `rxClass_of_short`, any other is classed by DECODE's answer and its id. -/
theorem readIsClassified : Obligations.ReadIsClassified :=
  fun lenCheck _ _ => ⟨rxClass_of_short lenCheck, fun h =>
    ⟨fun _ hd => rxClass_of_corrupt h hd,
     fun _ hd hid => (rxClass_of_ok h hd).trans (if_pos hid),
     fun _ hd hid => (rxClass_of_ok h hd).trans (if_neg hid)⟩⟩

/-! ### SEND and ERRSEND (R122, R125) -/

/-- A payload as long as a length byte says has that length byte. -/
theorem lenByte_of_length_eq {pay : List Byte} {len : Byte} (h : pay.length = len.toNat) : lenByte pay = len := by
  rw [lenByte, h, BitVec.ofNat_toNat, BitVec.setWidth_eq]

/-- The latched command's frame, when the payload has CMD_LEN entries. -/
theorem encodeFrame_cmdPayload {b : Block} (h : b.cmdPay.length = b.cmdLen.toNat) :
    encodeFrame b.cmdId b.cmdPayload =
      [b.cmdId, b.cmdLen] ++ b.cmdPay ++
        [b.cmdId ^^^ b.cmdLen ^^^ b.cmdPay.foldl (fun a b => a ^^^ b) 0] := by
  rw [Block.cmdPayload, arrayRead_eq_self h, encodeFrame_eq, lenByte_of_length_eq h, checksum_eq_foldl]

theorem exec_send {s : State} (hst : s.block.st = .sending) (hc : s.transport.callsLeft ≠ some 0) :
    exec .send s =
      .next ((s.setTransport (s.transport.spend.record (.tx (encodeFrame s.block.cmdId s.block.cmdPayload)))).setBlock
        s.block.sent) := by
  rw [exec, execSend, if_pos hst, Transport.write_returns _ hc]

/-- Settles O20: the call returns, and the frame it is handed is `encodeFrame_cmdPayload`. -/
theorem sendTransmitsTheCommand : Obligations.SendTransmitsTheCommand := by
  intro s hst hlen hc
  rw [exec_send hst hc, encodeFrame_cmdPayload hlen]
  rfl

theorem exec_errsend {s : State} (hst : s.block.st = .retrying) (hc : s.transport.callsLeft ≠ some 0) :
    exec .errsend s =
      .next ((s.setTransport (s.transport.spend.record (.tx errorSignal))).setBlock s.block.errSent) := by
  rw [exec, execErrsend, if_pos hst, Transport.write_returns _ hc]

/-- The RX_ERROR signal on the wire (R80). -/
theorem errorSignal_eq : errorSignal = [0xFF, 0x00, 0xFF] := by decide

/-- Settles O21: the call returns, and the signal it is handed is `errorSignal_eq`. -/
theorem errsendTransmitsTheSignal : Obligations.ErrsendTransmitsTheSignal := by
  intro s hst hc
  rw [exec_errsend hst hc, errorSignal_eq]
  rfl

/-! ### RECV and ERRRECV (R124, R126) -/

theorem Transport.read_returns {t : Transport} (n : Nat) (h : t.callsLeft ≠ some 0) :
    ∃ r u, t.read n = some (r, u) := by
  have answers : t.read n ≠ none := fun hn => h ((t.read_none_iff n).mp hn)
  obtain ⟨⟨r, u⟩, hr⟩ := Option.ne_none_iff_exists'.mp answers
  exact ⟨r, u, hr⟩

/-- The state in which the answer of a read is classed: the transport after it, and the answer in the receive buffer. -/
def State.holding (r : List Byte) (t : Transport) (s : State) : State :=
  { s with transport := t, block := { s.block with rxBuf := r } }

theorem State.receive_of_read {s : State} {r : List Byte} {t : Transport}
    (hr : s.transport.read s.block.expLen.toNat = some (r, t)) : s.receive = some (s.holding r t) := by
  rw [State.receive, hr]
  rfl

theorem exec_recv {s : State} {r : List Byte} {t : Transport} (hst : s.block.st = .awaiting)
    (hr : s.transport.read s.block.expLen.toNat = some (r, t)) :
    exec .recv s = .next ((s.holding r t).afterRecv (Machine.rxClass s.cfg.lenCheck r s.block.expLen.toNat)) := by
  rw [exec, execRecv, if_pos hst, State.receive_of_read hr]
  rfl

theorem exec_errrecv {s : State} {r : List Byte} {t : Transport} (hst : s.block.st = .reawaiting)
    (hr : s.transport.read s.block.expLen.toNat = some (r, t)) :
    exec .errrecv s =
      .next ((s.holding r t).afterErrRecv (Machine.rxClass s.cfg.lenCheck r s.block.expLen.toNat)) := by
  rw [exec, execErrrecv, if_pos hst, State.receive_of_read hr]
  rfl

/-- While the outer loop has a transmission left, an RX_ERROR answer sends the command again (T4). -/
theorem State.afterRecv_err_of_lt {s : State} (h : s.block.oc < 2) :
    s.afterRecv .err = s.setBlock (s.block.goto .sending) :=
  if_pos h

/-- With none left the budget is exhausted (T5). -/
theorem State.afterRecv_err_of_not_lt {s : State} (h : ¬ s.block.oc < 2) :
    s.afterRecv .err = s.setBlock (s.block.escalateWith .retryExhausted) :=
  if_neg h

/-- A failed answer to the signal: the inner loop first, then the outer one, then the fault (T10 to T12). -/
theorem State.afterErrRecv_fail (s : State) :
    s.afterErrRecv .fail =
      s.setBlock
        (if s.block.ic < 2 then s.block.goto .retrying
         else if s.block.oc < 2 then s.block.goto .sending
         else s.block.escalateWith .retryExhausted) := by
  rw [apply_ite (fun b => s.setBlock b), apply_ite (fun b => s.setBlock b)]
  rfl

/-- Entering SUCCESS from a read: the frame of `State.succeed`, seen from the state before the read. -/
theorem succeed_holding_frame (p : Packet) (r : List Byte) (t : Transport) (s : State) :
    ((s.holding r t).succeed p).cfg = s.cfg ∧ ((s.holding r t).succeed p).transport = t ∧
      ((s.holding r t).succeed p).host.pending = s.host.pending ∧
      ((s.holding r t).succeed p).block = Block.succeed p { s.block with rxBuf := r } := by
  obtain ⟨hcfg, hblock, htransport, hpending⟩ := (s.holding r t).succeed_frame p
  exact ⟨hcfg, htransport, hpending, hblock⟩

/-- Settles O22: the read returns, and each class has its equation of `State.afterRecv`. -/
theorem recvClassifiesTheResponse : Obligations.RecvClassifiesTheResponse := by
  intro s hst hc
  obtain ⟨r, t, hr⟩ := Transport.read_returns s.block.expLen.toNat hc
  rw [exec_recv hst hr]
  refine ⟨r, t, hr, fun p hgood => ?_, fun herr hoc => ?_, fun herr hoc => ?_, fun hfail => ?_⟩
  · rw [hgood]
    exact ⟨_, rfl, succeed_holding_frame p r t s⟩
  · rw [herr, State.afterRecv_err_of_lt (s := s.holding r t) hoc]
    rfl
  · rw [herr, State.afterRecv_err_of_not_lt (s := s.holding r t) hoc]
    rfl
  · rw [hfail]
    rfl

/-- Settles O23: the read returns, and each class has its equation of `State.afterErrRecv`. -/
theorem errrecvClassifiesTheResponse : Obligations.ErrrecvClassifiesTheResponse := by
  intro s hst hc
  obtain ⟨r, t, hr⟩ := Transport.read_returns s.block.expLen.toNat hc
  rw [exec_errrecv hst hr]
  refine ⟨r, t, hr, fun p hgood => ?_, fun herr => ?_, fun hfail => ?_⟩
  · rw [hgood]
    exact ⟨_, rfl, succeed_holding_frame p r t s⟩
  · rw [herr]
    rfl
  · rw [hfail, State.afterErrRecv_fail]
    rfl

/-! ### ESCALATE (R127) -/

theorem exec_escalate {s : State} (hst : s.block.st = .escalating) : exec .escalate s = .next s.faulted :=
  if_pos hst

/-- Settles O24: the step is `State.faulted`, whose frame is `State.faulted_frame`. -/
theorem escalateEntersFaulted : Obligations.EscalateEntersFaulted := by
  intro s hst
  obtain ⟨hcfg, hblock, htransport, hpending⟩ := s.faulted_frame
  exact ⟨s.faulted, exec_escalate hst, hcfg, htransport, hpending, hblock⟩

end Sys2Proof.Machine
end

