-- ==== Sys2Proof/Proofs/HostLayer.lean ====
section
/-! SUPPORT. The host layer: CHECK_RESET when its calls return (R161), and the argument checks before any I/O (R165). -/

namespace Sys2Proof.Machine

open Sys2Proof

/-! ### What a receive call adds to the writes and to the answers (R23) -/

/-- A count writes nothing and reads nothing (R45). -/
theorem Transport.waiting_sent_received {t u : Transport} {k : Nat} (h : t.waiting = some (k, u)) :
    u.sent = t.sent ∧ u.received = t.received := by
  obtain ⟨-, -, -, hhistory, -⟩ := Transport.waiting_some h
  simp [Transport.sent, Transport.received, hhistory]

/-- A read writes nothing, and its answer is the one answer it adds (R43). -/
theorem Transport.read_sent_received {t u : Transport} {n : Nat} {r : List Byte} (h : t.read n = some (r, u)) :
    u.sent = t.sent ∧ u.received = t.received ++ [r] := by
  obtain ⟨-, -, hhistory, -⟩ := Transport.read_some h
  simp [Transport.sent, Transport.received, hhistory]

/-! ### CHECK_RESET (R161) -/

/-- What CHECK_RESET ends with once it has drained `r`: the count of the bytes decides, not the bytes. -/
def drainError (r : List Byte) : DriverError :=
  if r.length < 5 then .readerFault .resetDrainTimeout else .deviceResetDetected

theorem Transport.checkReset_of_ne_five {t u : Transport} {w : Nat} (hw : t.waiting = some (w, u)) (h : w ≠ 5) :
    t.checkReset = (.proceed, u) := by
  rw [Transport.checkReset, hw]
  exact if_neg h

theorem Transport.checkReset_of_five {t u v : Transport} {r : List Byte} (hw : t.waiting = some (5, u))
    (hr : u.read 5 = some (r, v)) : t.checkReset = (.failed (drainError r), v) := by
  rw [Transport.checkReset, hw]
  dsimp only
  rw [if_pos rfl, hr, drainError]
  dsimp only
  split <;> rfl

theorem exec_checkReset_of_proceed {s : State} {t : Transport} (h : s.transport.checkReset = (.proceed, t)) :
    exec .checkReset s = .next ((s.setTransport t).tell .proceed) := by
  rw [exec, execCheckReset, h]

theorem exec_checkReset_of_failed {s : State} {t : Transport} {e : DriverError}
    (h : s.transport.checkReset = (.failed e, t)) :
    exec .checkReset s = .next ((s.setTransport t).tell (.error e)) := by
  rw [exec, execCheckReset, h]

/-- Settles O30: the two ends are `checkReset_of_ne_five` and `checkReset_of_five`, and the calls made add to the history
what `waiting_sent_received` and `read_sent_received` say. -/
theorem checkResetTestsForFive : Obligations.CheckResetTestsForFive := by
  intro s w u hw
  obtain ⟨waiting_sent, waiting_received⟩ := Transport.waiting_sent_received hw
  constructor
  · intro h
    exact ⟨exec_checkReset_of_proceed (Transport.checkReset_of_ne_five hw h), waiting_sent, waiting_received⟩
  · rintro rfl r v hr
    obtain ⟨read_sent, read_received⟩ := Transport.read_sent_received hr
    refine ⟨?_, read_sent.trans waiting_sent, by rw [read_received, waiting_received]⟩
    rw [exec_checkReset_of_failed (Transport.checkReset_of_five hw hr), drainError, apply_ite Reply.error]
    rfl

/-! ### Argument checks (R160, R165) -/

theorem exec_beep_of_many (s : State) {tones : List Tone} (again : Bool) (h : 8 < tones.length) :
    exec (.beep tones again) s = .next (s.tell (.error .validationError)) :=
  if_pos h

theorem exec_rfidSend_of_long (s : State) {pay : List Byte} (h : 128 < pay.length) :
    exec (.rfidSend pay) s = .next (s.tell (.error .validationError)) :=
  if_pos h

/-- Settles O35: above either bound the step only tells the host, which writes its reply and no other field. -/
theorem validationErrorTouchesNothing : Obligations.ValidationErrorTouchesNothing := by
  rintro s i (⟨tones, again, h, rfl⟩ | ⟨pay, h, rfl⟩)
  · exact exec_beep_of_many s again h
  · exact exec_rfidSend_of_long s h

end Sys2Proof.Machine
end

