-- ==== Sys2Proof/Proofs/Decoding.lean ====
section
/-! SUPPORT. The decoder against the encoder and against the widths and id classes (R72, R75 to R78, R82). -/

namespace Sys2Proof

/-! ### What the encoder writes comes back -/

/-- All 25 rows have the round trip. -/
theorem Laws.RoundTrip.statement_of_instr (i : Instr) : Laws.RoundTrip.Statement i := by
  cases i with
  | encode id pay => exact RoundTrip.encode id pay
  | decode raw => exact RoundTrip.decode raw
  | transceive id pay exp => exact RoundTrip.transceive id pay exp
  | reservedOp3 => exact RoundTrip.reservedOp3
  | start id pay exp => exact RoundTrip.start id pay exp
  | send => exact RoundTrip.send
  | recv => exact RoundTrip.recv
  | errsend => exact RoundTrip.errsend
  | errrecv => exact RoundTrip.errrecv
  | escalate => exact RoundTrip.escalate
  | checkReset => exact RoundTrip.checkReset
  | setLeds mask => exact RoundTrip.setLeds mask
  | beep tones again => exact RoundTrip.beep tones again
  | rfidSend pay => exact RoundTrip.rfidSend pay
  | frame id body => exact RoundTrip.frame id body
  | rxError body => exact RoundTrip.rxError body
  | answerToReset body => exact RoundTrip.answerToReset body
  | getStatus body => exact RoundTrip.getStatus body
  | setLed body => exact RoundTrip.setLed body
  | ack body => exact RoundTrip.ack body
  | beepFrame body => exact RoundTrip.beepFrame body
  | rfidSendFrame body => exact RoundTrip.rfidSendFrame body
  | rfidSendComplete body => exact RoundTrip.rfidSendComplete body
  | firmwareIds id body => exact RoundTrip.firmwareIds id body
  | unassignedId id body => exact RoundTrip.unassignedId id body

/-- Settles O1: each of the 25 rows has its round trip, and `Laws.RoundTrip.statement_of_instr` gathers them. -/
theorem encodeThenDecodeIsIdentity : Obligations.EncodeThenDecodeIsIdentity :=
  fun c i hc hi => Laws.RoundTrip.statement_of_instr i c hc hi

/-! ### The operands that a read answers fit their fields (R72, R82) -/

theorem takeBytes_length {n : Nat} {bs xs rest : List Byte} (h : takeBytes n bs = .ok (xs, rest)) : xs.length = n := by
  unfold takeBytes at h
  split at h
  · cases h; simpa
  · cases h

theorem readPay_fits {bs pay rest : List Byte} (h : readPay bs = .ok (pay, rest)) : payFits pay = true := by
  cases bs with
  | nil => cases h
  | cons len bs =>
    have : pay.length = len.toNat := takeBytes_length h
    simp only [payFits, decide_eq_true_eq]
    omega

theorem readIdPay_fits {bs pay rest : List Byte} {id : Byte} (h : readIdPay bs = .ok (id, pay, rest)) :
    payFits pay = true := by
  cases bs with
  | nil => cases h
  | cons b bs =>
    rw [readIdPay] at h
    split at h
    · next hp => cases h; exact readPay_fits hp
    · cases h

theorem readIdPayExp_fits {bs pay rest : List Byte} {id : Byte} {exp : BitVec 9}
    (h : readIdPayExp bs = .ok (id, pay, exp, rest)) : payFits pay = true := by
  unfold readIdPayExp at h
  split at h
  · next hp =>
    split at h
    · cases h; exact readIdPay_fits hp
    · cases h
  · cases h

theorem readFrame_fits {bs rest : List Byte} {id : Byte} {body : FrameBody}
    (h : readFrame bs = .ok (id, body, rest)) : payFits body.payload = true := by
  cases bs with
  | nil => cases h
  | cons b bs =>
    rw [readFrame] at h
    split at h
    · cases h
    · next hp =>
      split at h
      · cases h
      · cases h; exact readPay_fits hp

theorem readTones_length {n : Nat} {bs rest : List Byte} {tones : List Tone}
    (h : readTones n bs = .ok (tones, rest)) : tones.length = n := by
  induction n generalizing bs tones with
  | zero => cases h; rfl
  | succ n ih =>
    rw [readTones] at h
    split at h
    · cases h
    · split at h
      · cases h
      · split at h
        · cases h
        · next hr => cases h; rw [List.length_cons, ih hr]

/-! ### What each code space answers is well-formed -/

theorem decodePort_wellFormed (c : Config) {bs rest : List Byte} {i : Instr} (h : decodePort bs = .ok (i, rest)) :
    i.wellFormed c = true := by
  cases bs with
  | nil => cases h
  | cons op bs =>
    rw [decodePort] at h
    split_ifs at h
    · split at h
      · next hr => cases h; exact readIdPay_fits hr
      · cases h
    · split at h
      · next cnt _ _ =>
        split at h
        · next raw _ ht =>
          cases h
          have : raw.length = cnt.toNat := takeBytes_length ht
          simp only [Instr.wellFormed, rawFits, decide_eq_true_eq]
          omega
        · cases h
      · cases h
    · split at h
      · next hr => cases h; exact readIdPayExp_fits hr
      · cases h
    · cases h; rfl

theorem decodeFsm_wellFormed (c : Config) {bs rest : List Byte} {i : Instr} (h : decodeFsm bs = .ok (i, rest)) :
    i.wellFormed c = true := by
  cases bs with
  | nil => cases h
  | cons st bs =>
    rw [decodeFsm] at h
    split_ifs at h
    · cases h; rfl
    · cases h; rfl
    · cases h; rfl
    · cases h; rfl
    · cases h; rfl
    · split at h
      · next hr => cases h; exact readIdPayExp_fits hr
      · cases h

theorem callCountFits_toNat (n : BitVec 16) : callCountFits n.toNat = true :=
  decide_eq_true n.isLt

theorem decodeCall_wellFormed (c : Config) {bs rest : List Byte} {i : Instr} (h : decodeCall bs = .ok (i, rest)) :
    i.wellFormed c = true := by
  cases bs with
  | nil => cases h
  | cons call bs =>
    simp only [decodeCall] at h
    split_ifs at h
    · cases h; rfl
    · split at h
      · cases h; rfl
      · cases h
    · split at h
      · split_ifs at h
        split at h
        · split at h
          · next hr =>
            cases h
            rw [Instr.wellFormed, readTones_length hr]
            exact callCountFits_toNat _
          · cases h
        · cases h
      · cases h
    · split at h
      · split at h
        · next ht =>
          cases h
          rw [Instr.wellFormed, takeBytes_length ht]
          exact callCountFits_toNat _
        · cases h
      · cases h

/-- The row that the id selects has the id class it names (R75 to R78). -/
theorem frameRow_wellFormed (c : Config) (id : Byte) {body : FrameBody} (h : payFits body.payload = true) :
    (frameRow c id body).wellFormed c = true := by
  unfold frameRow
  split_ifs with hErr hHigh hAtr hGet hLed hAck hBeep hSend hComplete
  · exact h
  · have class_unassigned : isUnassignedId id = true := by
      rw [isUnassignedId, Bool.and_eq_true]
      exact ⟨decide_eq_true hHigh, bne_iff_ne.mpr hErr⟩
    rw [Instr.wellFormed, class_unassigned, h, Bool.and_self]
  · exact h
  · exact h
  · exact h
  · exact h
  · exact h
  · exact h
  · exact h
  · have class_firmware : c.isFirmwareId id = true := by
      rw [Config.isFirmwareId, Bool.and_eq_true]
      exact ⟨decide_eq_true (BitVec.not_lt.mp hHigh),
        by simp [Config.ids, hAtr, hGet, hLed, hAck, hBeep, hSend, hComplete]⟩
    rw [Instr.wellFormed, class_firmware, h, Bool.and_self]

/-- Settles O2: each code space has its lemma; a frame read in the id space is classed by `frameRow_wellFormed`. -/
theorem decodedInstrIsWellFormed : Obligations.DecodedInstrIsWellFormed := by
  intro c src bs rest i h
  cases src with
  | port => exact decodePort_wellFormed c h
  | fsm => exact decodeFsm_wellFormed c h
  | call => exact decodeCall_wellFormed c h
  | format =>
    rw [decode] at h
    split at h
    · next hr => cases h; exact readFrame_fits hr
    · cases h
  | wire =>
    rw [decode] at h
    split at h
    · next hr => cases h; exact frameRow_wellFormed c _ (readFrame_fits hr)
    · cases h

/-- Settles O3: the six words are evaluated. -/
theorem specWordsDecode : Obligations.SpecWordsDecode := by
  unfold Obligations.SpecWordsDecode
  decide

end Sys2Proof
end

