-- ==== Sys2Proof/Proofs/WholeMachine.lean ====
section
/-! SUPPORT. What a step does to the block is one row of R130's table; what every step keeps follows row by row. -/

namespace Sys2Proof.Machine

open Sys2Proof

/-! ### The frames of the shared operations, part by part -/

@[simp] theorem State.succeed_block (p : Packet) (s : State) : (s.succeed p).block = s.block.succeed p :=
  (s.succeed_frame p).2.1

@[simp] theorem State.succeed_transport (p : Packet) (s : State) : (s.succeed p).transport = s.transport :=
  (s.succeed_frame p).2.2.1

@[simp] theorem State.faulted_block (s : State) : s.faulted.block = s.block.goto .faulted :=
  s.faulted_frame.2.1

@[simp] theorem State.faulted_transport (s : State) : s.faulted.transport = s.transport :=
  s.faulted_frame.2.2.1

@[simp] theorem State.afterRecv_transport (c : RxClass) (s : State) : (s.afterRecv c).transport = s.transport :=
  (s.afterRecv_spec c).2.1

@[simp] theorem State.afterErrRecv_transport (c : RxClass) (s : State) :
    (s.afterErrRecv c).transport = s.transport :=
  (s.afterErrRecv_spec c).2.1

theorem Transport.read_length_le {t u : Transport} {n : Nat} {r : List Byte} (h : t.read n = some (r, u)) :
    r.length ≤ n :=
  (Transport.read_some h).2.1

/-! ### The table of transitions (R130) -/

/-- The rows of R130's table, with the writes each makes (T4 and T11 both send the command again, T5 and T12 both exhaust
the budget, T3 and T8 both succeed). -/
inductive Transition (lenCheck : Bool) (b : Block) : Block → Prop
  | stays : Transition lenCheck b b
  | start (id : Byte) (pay : List Byte) (exp : BitVec 9) (accepts : b.accepts = true) (fits : pay.length ≤ 255) :
      Transition lenCheck b (b.start id pay exp)
  | send (st : b.st = .sending) : Transition lenCheck b b.sent
  | succeed (r : List Byte) (p : Packet) (st : b.st = .awaiting ∨ b.st = .reawaiting)
      (read : r.length ≤ b.expLen.toNat) (good : rxClass lenCheck r b.expLen.toNat = .good p) :
      Transition lenCheck b (Block.succeed p { b with rxBuf := r })
  | sendAgain (r : List Byte) (read : r.length ≤ b.expLen.toNat)
      (st : b.st = .awaiting ∨ b.st = .reawaiting ∧ ¬ b.ic < 2) (left : b.oc < 2) :
      Transition lenCheck b (Block.goto .sending { b with rxBuf := r })
  | exhaust (r : List Byte) (read : r.length ≤ b.expLen.toNat)
      (st : b.st = .awaiting ∨ b.st = .reawaiting ∧ ¬ b.ic < 2) (spent : ¬ b.oc < 2) :
      Transition lenCheck b (Block.escalateWith .retryExhausted { b with rxBuf := r })
  | enterInner (r : List Byte) (read : r.length ≤ b.expLen.toNat) (st : b.st = .awaiting) :
      Transition lenCheck b (Block.enterInner { b with rxBuf := r })
  | errSend (st : b.st = .retrying) : Transition lenCheck b b.errSent
  | echo (r : List Byte) (read : r.length ≤ b.expLen.toNat) (st : b.st = .reawaiting) :
      Transition lenCheck b (Block.escalateWith .errorEcho { b with rxBuf := r })
  | retry (r : List Byte) (read : r.length ≤ b.expLen.toNat) (st : b.st = .reawaiting) (left : b.ic < 2) :
      Transition lenCheck b (Block.goto .retrying { b with rxBuf := r })
  | escalate (st : b.st = .escalating) : Transition lenCheck b (b.goto .faulted)

/-- Every move is a row of the table. -/
theorem BlockMove.transition {s t : State} (h : BlockMove s t) : Transition s.cfg.lenCheck s.block t.block := by
  cases h with
  | stays hb _ => rw [hb]; exact .stays
  | starts id pay exp ha hp hb => rw [hb]; exact .start id pay exp ha hp
  | sends hs hb _ => rw [hb]; exact .send hs
  | receives r u hs hr ht =>
    have read := Transport.read_length_le hr
    obtain ⟨-, -, -, ⟨p, hc, -, e⟩ | ⟨-, hoc, e⟩ | ⟨-, hoc, e⟩ | ⟨-, e⟩⟩ :=
      State.afterRecv_spec (rxClass s.cfg.lenCheck r s.block.expLen.toNat) (s.holding r u)
    · rw [ht]; exact e ▸ .succeed r p (.inl hs) read hc
    · rw [ht]; exact e ▸ .sendAgain r read (.inl hs) hoc
    · rw [ht]; exact e ▸ .exhaust r read (.inl hs) hoc
    · rw [ht]; exact e ▸ .enterInner r read hs
  | errSends hs hb _ => rw [hb]; exact .errSend hs
  | errReceives r u hs hr ht =>
    have read := Transport.read_length_le hr
    obtain ⟨-, -, -, ⟨p, hc, -, e⟩ | ⟨-, e⟩ | ⟨-, hic, e⟩ | ⟨-, hic, hoc, e⟩ | ⟨-, hic, hoc, e⟩⟩ :=
      State.afterErrRecv_spec (rxClass s.cfg.lenCheck r s.block.expLen.toNat) (s.holding r u)
    · rw [ht]; exact e ▸ .succeed r p (.inr hs) read hc
    · rw [ht]; exact e ▸ .echo r read hs
    · rw [ht]; exact e ▸ .retry r read hs hic
    · rw [ht]; exact e ▸ .sendAgain r read (.inr ⟨hs, hic⟩) hoc
    · rw [ht]; exact e ▸ .exhaust r read (.inr ⟨hs, hic⟩) hoc
  | escalates hs ht => rw [ht, State.faulted_block]; exact .escalate hs

/-- Everything a step can do, once a request may have been taken: one move within its frame, or reset. -/
theorem step_move {s t : State} (h : step s = .next t) :
    ∃ rest, (Frame (s.popTo rest) t ∧ BlockMove (s.popTo rest) t) ∨
      (s.host.pending = .reset :: rest ∧ t = (s.popTo rest).resetBlock) := by
  obtain ⟨rest, -, ⟨i, hi⟩ | ⟨r, rfl⟩ | rfl | hreset⟩ := step_cases h
  · exact ⟨rest, .inl (exec_move hi)⟩
  · exact ⟨rest, .inl ⟨⟨rfl, rfl, [], by simp⟩, .stays rfl (.inl rfl)⟩⟩
  · exact ⟨rest, .inl ⟨.refl _, .stays rfl (.inl rfl)⟩⟩
  · exact ⟨rest, .inr hreset⟩

/-- A step takes the block along one row of the table, or resets it. -/
theorem step_transition {s t : State} (h : step s = .next t) :
    Transition s.cfg.lenCheck s.block t.block ∨ ∃ rest, s.host.pending = .reset :: rest ∧ t.block = Block.reset := by
  obtain ⟨rest, ⟨-, move⟩ | ⟨pending, rfl⟩⟩ := step_move h
  · exact .inl move.transition
  · exact .inr ⟨rest, pending, rfl⟩

/-! ### What every step keeps (R1, R12, R13, R23, R130) -/

/-- Settles O49: `step_move` gives each move its frame, and reset touches neither the parameters nor the transport. -/
theorem configIsFixedAndHistoryGrows : Obligations.ConfigIsFixedAndHistoryGrows := by
  intro s t h
  obtain ⟨rest, ⟨frame, -⟩ | ⟨-, rfl⟩⟩ := step_move h
  · exact ⟨frame.cfg, frame.history⟩
  · exact ⟨rfl, [], (List.append_nil _).symm, Nat.zero_le 2⟩

/-- Settles O50: START is the only row of the table that writes a command register. -/
theorem commandRegistersAreWrittenByStartOnly : Obligations.CommandRegistersAreWrittenByStartOnly := by
  intro s t h
  rcases step_transition h with row | reset
  · generalize t.block = b at row ⊢
    cases row with
    | start id pay exp accepts _ => exact .inr (.inl ⟨accepts, rfl, rfl⟩)
    | _ => exact .inl rfl
  · exact .inr (.inr reset)

/-- Settles O51: the entry into SUCCESS is the only row of the table that writes a result register. -/
theorem resultRegistersAreWrittenBySuccessOnly : Obligations.ResultRegistersAreWrittenBySuccessOnly := by
  intro s t h
  rcases step_transition h with row | reset
  · generalize t.block = b at row ⊢
    cases row with
    | succeed r p st _ _ => exact .inr (.inl ⟨st, rfl, rfl⟩)
    | _ => exact .inl rfl
  · exact .inr (.inr reset)

/-- Settles O52: each row of the table is read off `Transition`. -/
theorem transitionsOfStAreTheTable : Obligations.TransitionsOfStAreTheTable := by
  intro s t h moved
  rcases step_transition h with row | ⟨rest, pending, hb⟩
  · generalize t.block = b at row moved ⊢
    cases row with
    | stays => exact absurd rfl moved
    | start id pay exp accepts _ => simp [(Block.accepts_iff _).mp accepts]
    | send st => simp [st]
    | succeed r p st _ _ => rcases st with st | st <;> simp [st]
    | sendAgain r _ st left =>
      rcases st with st | ⟨st, hic⟩
      · simpa [st] using left
      · simpa [st] using And.intro hic left
    | exhaust r _ st spent =>
      rcases st with st | ⟨st, hic⟩
      · simpa [st] using spent
      · simpa [st] using And.intro hic spent
    | enterInner r _ st => simp [st]
    | errSend st => simp [st]
    | echo r _ st => simp [st]
    | retry r _ st left => simpa [st] using left
    | escalate st => simp [st]
  · exact .inl ⟨rest, pending, by rw [hb]; rfl⟩

/-! ### Good states (R17, R132) -/

/-- The clauses of a good state that speak of the block alone. -/
structure Block.Good (lenCheck : Bool) (b : Block) : Prop where
  counters : b.CountersOk
  flags : b.FlagsOk
  arrays : b.ArraysOk
  result : b.ResultOk lenCheck

theorem State.good_iff (s : State) : s.Good ↔ s.cfg.Wf ∧ s.block.Good s.cfg.lenCheck ∧ s.WaiterOk :=
  ⟨fun ⟨wf, counters, flags, arrays, result, waiter⟩ => ⟨wf, ⟨counters, flags, arrays, result⟩, waiter⟩,
    fun ⟨wf, ⟨counters, flags, arrays, result⟩, waiter⟩ => ⟨wf, counters, flags, arrays, result, waiter⟩⟩

theorem Block.reset_good (lenCheck : Bool) : Block.reset.Good lenCheck :=
  ⟨by decide, by decide, by decide, fun h => nomatch h⟩

/-- A Good answer that the read bounds has EXP_LEN - 3 payload bytes (R128). -/
theorem rxClass_good_payload {lenCheck : Bool} {r : List Byte} {n : Nat} {p : Packet} (read : r.length ≤ n)
    (good : rxClass lenCheck r n = .good p) : p.payload.length + 3 = n := by
  obtain ⟨enough, decoded, -⟩ := rxClass_good good
  have parts := congrArg List.length (decodeFrame_ok decoded).1
  simp at parts
  omega

/-- RES_CNT has room for the payload of a Good answer (R13). -/
theorem rxClass_good_resCnt {lenCheck : Bool} {r : List Byte} {exp : BitVec 9} {p : Packet}
    (read : r.length ≤ exp.toNat) (good : rxClass lenCheck r exp.toNat = .good p) :
    (BitVec.ofNat 9 p.payload.length).toNat = p.payload.length := by
  have count := rxClass_good_payload read good
  have bound := exp.isLt
  exact Nat.mod_eq_of_lt (by omega)

section
variable {lenCheck : Bool} {b b' : Block} (row : Transition lenCheck b b')
include row

/-- OC and IC (R132): SEND and ERRSEND count up from states where there is room, and the rows that lead back to SENDING
and RETRYING ask for the room. -/
theorem Transition.countersOk (h : b.CountersOk) : b'.CountersOk := by
  cases row with
  | stays => exact h
  | start id pay exp _ _ => simp [Block.CountersOk]
  | send st => simp [Block.CountersOk, st] at h ⊢; bv_omega
  | succeed r p st _ _ => rcases st with st | st <;> (simp [Block.CountersOk, st] at h ⊢; bv_omega)
  | sendAgain r _ st left => rcases st with st | ⟨st, -⟩ <;> (simp [Block.CountersOk, st] at h ⊢; bv_omega)
  | exhaust r _ st _ => rcases st with st | ⟨st, -⟩ <;> (simp [Block.CountersOk, st] at h ⊢; bv_omega)
  | enterInner r _ st => simp [Block.CountersOk, st] at h ⊢; bv_omega
  | errSend st => simp [Block.CountersOk, st] at h ⊢; bv_omega
  | echo r _ st => simp [Block.CountersOk, st] at h ⊢; bv_omega
  | retry r _ st left => simp [Block.CountersOk, st] at h ⊢; bv_omega
  | escalate st => simp [Block.CountersOk, st] at h ⊢; bv_omega

/-- RES_VALID and CAUSE (R17, R132): set by the rows into SUCCESS and ESCALATING, cleared by START. -/
theorem Transition.flagsOk (h : b.FlagsOk) : b'.FlagsOk := by
  cases row with
  | stays => exact h
  | start id pay exp _ _ => simp [Block.FlagsOk]
  | send st => simpa [Block.FlagsOk, st] using h
  | succeed r p st _ _ => rcases st with st | st <;> (simp [Block.FlagsOk, st] at h ⊢; exact h.2)
  | sendAgain r _ st _ => rcases st with st | ⟨st, -⟩ <;> simpa [Block.FlagsOk, st] using h
  | exhaust r _ st _ => rcases st with st | ⟨st, -⟩ <;> (simp [Block.FlagsOk, st] at h ⊢; exact h.1)
  | enterInner r _ st => simpa [Block.FlagsOk, st] using h
  | errSend st => simpa [Block.FlagsOk, st] using h
  | echo r _ st => simp [Block.FlagsOk, st] at h ⊢; exact h.1
  | retry r _ st _ => simpa [Block.FlagsOk, st] using h
  | escalate st => simpa [Block.FlagsOk, st] using h

/-- CMD_PAY and RES_PAY (R12, R13) are written with their counts, and the receive buffer holds one read of EXP_LEN
(R21). -/
theorem Transition.arraysOk (h : b.ArraysOk) : b'.ArraysOk := by
  obtain ⟨cmd, res, resFits, buf⟩ := h
  have bound := b.expLen.isLt
  have holds : ∀ r : List Byte, r.length ≤ b.expLen.toNat → r.length ≤ 511 := by omega
  cases row with
  | stays => exact ⟨cmd, res, resFits, buf⟩
  | start id pay exp _ fits => exact ⟨(lenByte_toNat fits).symm, res, resFits, buf⟩
  | succeed r p _ read good =>
    have count := rxClass_good_payload read good
    exact ⟨cmd, (rxClass_good_resCnt read good).symm, show p.payload.length ≤ 508 by omega, holds r read⟩
  | send _ | errSend _ | escalate _ => exact ⟨cmd, res, resFits, buf⟩
  | sendAgain r read _ _ | exhaust r read _ _ | enterInner r read _ | echo r read _ | retry r read _ _ =>
    exact ⟨cmd, res, resFits, holds r read⟩

/-- The packet in SUCCESS (R128) is a Good answer; every other row leaves RES_VALID, the result registers and EXP_LEN, or
clears RES_VALID. -/
theorem Transition.resultOk (h : b.ResultOk lenCheck) : b'.ResultOk lenCheck := by
  cases row with
  | start id pay exp _ _ => exact fun valid => nomatch valid
  | succeed r p _ read good =>
    have resCnt := rxClass_good_resCnt read good
    obtain ⟨-, decoded, id_ne⟩ := rxClass_good good
    obtain ⟨-, -, length⟩ := decodeFrame_ok decoded
    refine fun _ => ⟨?_, fun checked => ?_, id_ne⟩
    · rw [Block.succeed_resCnt, resCnt]
      exact rxClass_good_payload read good
    · rw [Block.succeed_resCnt, resCnt]
      exact length checked
  | _ => exact h

end

theorem Block.Good.transition {lenCheck : Bool} {b b' : Block} (h : b.Good lenCheck)
    (row : Transition lenCheck b b') : b'.Good lenCheck :=
  ⟨row.countersOk h.counters, row.flagsOk h.flags, row.arraysOk h.arrays, row.resultOk h.result⟩

/-! ### Who waits (R228) -/

/-- A concluded transaction leaves nobody waiting, unless the host is stuck. -/
theorem State.conclude_waiter (r : Reply) (s : State) :
    (s.conclude r).host.waiter = .nobody ∨ (s.conclude r).host.waiter = .stuck := by
  rcases s.conclude_spec r with ⟨waiter, e⟩ | ⟨-, -, e⟩
  · rw [e]; exact waiter
  · rw [e]; exact .inl rfl

/-- SUCCESS always has its packet, so it concludes. -/
theorem State.succeed_eq (p : Packet) (s : State) :
    s.succeed p = (s.setBlock (s.block.succeed p)).conclude
      (successReply s.cfg s.host.waiter (s.block.succeed p).resultPacket) := rfl

/-- FAULTED concludes when CAUSE holds a cause. -/
theorem State.faulted_eq {s : State} {c : ReaderCause} (h : s.block.cause.toReader = some c) :
    s.faulted = (s.setBlock (s.block.goto .faulted)).conclude (.error (.readerFault c)) := by
  simp only [State.faulted, State.setBlock_block, Block.goto_cause, h]

/-- With no cause there is nothing to tell. -/
theorem State.faulted_of_noCause {s : State} (h : s.block.cause.toReader = none) :
    s.faulted = s.setBlock (s.block.goto .faulted) := by
  simp only [State.faulted, State.setBlock_block, Block.goto_cause, h]

theorem Cause.toReader_of_ne {c : Cause} (h : c ≠ .noCause) : ∃ k, c.toReader = some k := by
  cases c with
  | noCause => exact absurd rfl h
  | retryExhausted => exact ⟨_, rfl⟩
  | errorEcho => exact ⟨_, rfl⟩

/-- A move leaves the block running, or ends it with nobody waiting; a block that is not written keeps its waiter. -/
theorem BlockMove.waiterOk {s t : State} (move : BlockMove s t) (flags : s.block.FlagsOk) (h : s.WaiterOk) :
    t.WaiterOk := by
  intro accepts
  cases move with
  | stays hb hw =>
    rcases hw with hw | hw
    · rw [hw]; exact h (hb ▸ accepts)
    · exact .inr hw
  | starts id pay exp _ _ hb => simp [hb, Block.accepts] at accepts
  | sends _ hb _ => simp [hb, Block.accepts] at accepts
  | receives r u _ _ ht =>
    subst ht
    obtain ⟨-, -, -, ⟨p, -, e, -⟩ | ⟨-, -, e⟩ | ⟨-, -, e⟩ | ⟨-, e⟩⟩ := State.afterRecv_spec
      (rxClass s.cfg.lenCheck r s.block.expLen.toNat) { s with transport := u, block := { s.block with rxBuf := r } }
    · rw [e, State.succeed_eq]; exact State.conclude_waiter _ _
    all_goals rw [e] at accepts; exact absurd accepts (by simp [Block.accepts])
  | errSends _ hb _ => simp [hb, Block.accepts] at accepts
  | errReceives r u _ _ ht =>
    subst ht
    obtain ⟨-, -, -, ⟨p, -, e, -⟩ | ⟨-, e⟩ | ⟨-, -, e⟩ | ⟨-, -, -, e⟩ | ⟨-, -, -, e⟩⟩ := State.afterErrRecv_spec
      (rxClass s.cfg.lenCheck r s.block.expLen.toNat) { s with transport := u, block := { s.block with rxBuf := r } }
    · rw [e, State.succeed_eq]; exact State.conclude_waiter _ _
    all_goals rw [e] at accepts; exact absurd accepts (by simp [Block.accepts])
  | escalates hs ht =>
    obtain ⟨k, hk⟩ := Cause.toReader_of_ne (flags.2.mpr (.inl hs))
    rw [ht, State.faulted_eq hk]
    exact State.conclude_waiter _ _

/-- Settles O43: a move takes the block along a row of the table (`Block.Good.transition`), keeps the parameters and
leaves nobody waiting where it ends (`BlockMove.waiterOk`); reset makes the block `Block.reset` and nobody wait. -/
theorem stepKeepsGoodStates : Obligations.StepKeepsGoodStates := by
  intro s t h hstep
  rw [State.good_iff] at h ⊢
  obtain ⟨wf, block, waiter⟩ := h
  obtain ⟨rest, ⟨frame, move⟩ | ⟨-, rfl⟩⟩ := step_move hstep
  · have cfg : t.cfg = s.cfg := frame.cfg
    rw [cfg]
    exact ⟨wf, block.transition move.transition, move.waiterOk block.flags waiter⟩
  · exact ⟨wf, Block.reset_good _, fun _ => .inl rfl⟩

/-! ### Reset (R25, R220) -/

/-- The free parameters keep R75's law: where the draw breaks it, the vector assignment stands in. -/
theorem Config.board_wf : Config.board.Wf := by
  unfold Config.board
  split
  · assumption
  · decide

/-- Settles O44: the parameters by `Config.board_wf`, the block by `Block.reset_good`. -/
theorem resetIsGood : Obligations.ResetIsGood :=
  State.reset.good_iff.mpr ⟨Config.board_wf, Block.reset_good _, fun _ => .inl rfl⟩

/-- A reset request is taken in every state, while a host procedure hangs too. -/
theorem step_reset {s : State} {rest : List Request} (h : s.host.pending = .reset :: rest) :
    step s = .next (s.popTo rest).resetBlock := by
  have fetched : fetch s = .moved (s.popTo rest).resetBlock := by simp [fetch, h, Request.fromHost, fetchRequest]
  rw [step, fetched]

/-- Settles O45: both states have the block `Block.reset`, whose values are evaluated. -/
theorem resetLeavesIdle : Obligations.ResetLeavesIdle := by
  have status : Block.reset.status = 0 := by decide
  exact ⟨⟨rfl, rfl, rfl, rfl, rfl, status, rfl⟩,
    fun s rest h => ⟨_, step_reset h, rfl, rfl, rfl, rfl, rfl, status, rfl, rfl, rfl⟩⟩

end Sys2Proof.Machine
end

