-- ==== Sys2Proof/Proofs/CodecLaws.lean ====
section
/-! SUPPORT. What the codec accepts (R103, R107 to R110): from three bytes on, DECODE's verdict is the length test and the
sum of the whole input. -/

namespace Sys2Proof.Machine

open Sys2Proof

/-- The empty sum, as the model spells it, adds nothing. -/
theorem zero_xor_byte (b : Byte) : 0 ^^^ b = b :=
  BitVec.zero_xor

/-! ### DECODE's verdict on whole inputs (R101, R104, R105, R110) -/

/-- The length test fails: it is on, and byte 1 is not the count of the bytes between header and last byte (R105). -/
def LengthFails (lenCheck : Bool) (raw : List Byte) : Prop :=
  lenCheck = true ∧ ∀ b, raw[1]? = some b → b.toNat ≠ raw.length - 3

theorem lengthFails_parts (lenCheck : Bool) (id len cs : Byte) (pay : List Byte) :
    LengthFails lenCheck ([id, len] ++ pay ++ [cs]) ↔ lenCheck = true ∧ len.toNat ≠ pay.length := by
  simp [LengthFails]

/-- The sum of a whole input is zero exactly when its last byte is the sum of the others (R110). -/
theorem checksum_parts (id len cs : Byte) (pay : List Byte) :
    checksum ([id, len] ++ pay ++ [cs]) = 0 ↔ id ^^^ len ^^^ checksum pay = cs := by
  have whole : checksum ([id, len] ++ pay ++ [cs]) = id ^^^ len ^^^ checksum pay ^^^ cs := by
    simp [checksum_append, BitVec.xor_assoc]
  rw [whole, xor_eq_zero_iff]

theorem decodeFrame_of_lengthFails {lenCheck : Bool} {raw : List Byte} (three : 3 ≤ raw.length)
    (fails : LengthFails lenCheck raw) : decodeFrame lenCheck raw = .corrupt .length := by
  obtain ⟨id, len, cs, pay, rfl⟩ := exists_parts three
  rw [decodeFrame_parts, decodeParts, if_pos ((lengthFails_parts ..).mp fails)]

theorem decodeFrame_of_sum_ne {lenCheck : Bool} {raw : List Byte} (three : 3 ≤ raw.length)
    (passes : ¬ LengthFails lenCheck raw) (sum : checksum raw ≠ 0) :
    decodeFrame lenCheck raw = .corrupt .checksum := by
  obtain ⟨id, len, cs, pay, rfl⟩ := exists_parts three
  rw [decodeFrame_parts, decodeParts, if_neg (mt (lengthFails_parts ..).mpr passes),
    if_pos (mt (checksum_parts ..).mpr sum)]

/-- An input is accepted exactly when it has three bytes, passes the length test, and sums to zero. -/
theorem decodeFrame_accepts_iff (lenCheck : Bool) (raw : List Byte) :
    (∃ p, decodeFrame lenCheck raw = .ok p) ↔ 3 ≤ raw.length ∧ ¬ LengthFails lenCheck raw ∧ checksum raw = 0 := by
  constructor
  · rintro ⟨p, hp⟩
    obtain ⟨parts, sum, checked⟩ := decodeFrame_ok hp
    rw [parts, lengthFails_parts, checksum_parts]
    exact ⟨by simp, fun fails => fails.2 (checked fails.1), sum⟩
  · rintro ⟨three, passes, sum⟩
    obtain ⟨id, len, cs, pay, rfl⟩ := exists_parts three
    rw [decodeFrame_parts, decodeParts, if_neg (mt (lengthFails_parts ..).mpr passes),
      if_neg (not_not.mpr ((checksum_parts ..).mp sum))]
    exact ⟨_, rfl⟩

theorem not_lengthFails_false (raw : List Byte) : ¬ LengthFails false raw :=
  fun fails => nomatch fails.1

/-- Settles O11: without LEN_CHECK only the sum of the whole input is left of `decodeFrame_accepts_iff`. -/
theorem acceptanceIsZeroSum : Obligations.AcceptanceIsZeroSum := by
  intro raw three
  have accepts : (∃ p, decodeFrame false raw = .ok p) ↔ checksum raw = 0 := by
    rw [decodeFrame_accepts_iff]
    exact ⟨fun h => h.2.2, fun sum => ⟨three, not_lengthFails_false raw, sum⟩⟩
  exact ⟨accepts, by rw [accepts, accumulate_eq, zero_xor_byte]⟩

/-! ### ENCODE's frames (R103, R107) -/

theorem checksum_encodeFrame (id : Byte) (pay : List Byte) : checksum (encodeFrame id pay) = 0 := by
  rw [encodeFrame_eq, checksum_parts]

/-- The round trip, under either setting of LEN_CHECK (R107). -/
theorem decodeFrame_encodeFrame (lenCheck : Bool) (id : Byte) {pay : List Byte} (h : pay.length ≤ 255) :
    decodeFrame lenCheck (encodeFrame id pay) =
      .ok ⟨id, lenByte pay, pay, id ^^^ lenByte pay ^^^ checksum pay⟩ := by
  rw [encodeFrame_eq, decodeFrame_parts, decodeParts, if_neg (fun fails => fails.2 (lenByte_toNat h)),
    if_neg (not_not.mpr rfl)]

/-- Settles O8: `decodeFrame_encodeFrame`, with the checksum of the header and payload written as one sum. -/
theorem codecRoundTrip : Obligations.CodecRoundTrip := by
  intro lenCheck id pay h
  have sum : checksum ([id, lenByte pay] ++ pay) = id ^^^ lenByte pay ^^^ checksum pay := by simp [BitVec.xor_assoc]
  rw [decodeFrame_encodeFrame lenCheck id h, ← sum]
  rfl

/-- Settles O7: the parts of the frame are `encodeFrame_eq`, its sum is `checksum_encodeFrame`, and the round trip accepts
it. -/
theorem encodedFrameIsSound : Obligations.EncodedFrameIsSound := by
  intro id pay h
  have count : (encodeFrame id pay).length = 3 + pay.length := by rw [encodeFrame_length, Nat.add_comm]
  refine ⟨count, fun b hb => ?_, checksum_encodeFrame id pay,
    fun lenCheck => ⟨_, decodeFrame_encodeFrame lenCheck id h⟩⟩
  have byte : b = lenByte pay := by simpa [encodeFrame_eq] using hb.symm
  rw [byte, lenByte_toNat h, count, Nat.add_sub_cancel_left]

/-! ### Error patterns (R108, R109) -/

theorem checksum_zipWith_xor {f e : List Byte} (h : e.length = f.length) :
    checksum (List.zipWith (fun a b => a ^^^ b) f e) = checksum f ^^^ checksum e := by
  induction f generalizing e with
  | nil => cases e with
    | nil => rfl
    | cons b e => cases h
  | cons a f ih => cases e with
    | nil => cases h
    | cons b e =>
      have swap : a ^^^ b ^^^ (checksum f ^^^ checksum e) = a ^^^ checksum f ^^^ (b ^^^ checksum e) := by ac_rfl
      simpa [ih (Nat.succ.inj h)] using swap

theorem checksum_modify_xor {f : List Byte} {k : Nat} (m : Byte) (h : k < f.length) :
    checksum (f.modify k (fun b => b ^^^ m)) = checksum f ^^^ m := by
  induction f generalizing k with
  | nil => cases h
  | cons b f ih => cases k with
    | zero => simp; ac_rfl
    | succ k => simp [ih (Nat.lt_of_succ_lt_succ h), BitVec.xor_assoc]

/-- An error pattern sums to zero exactly when every bit position has an even number of flips (R100). -/
theorem checksum_eq_zero_iff_even (e : List Byte) :
    checksum e = 0 ↔ ∀ j, e.countP (fun b => b.getLsbD j) % 2 = 0 := by
  constructor
  · intro h j
    have bit := checksum_getLsbD e j
    rw [h] at bit
    simpa using bit
  · intro h
    ext j hj
    simp [← BitVec.getLsbD_eq_getElem, checksum_getLsbD, h]

/-- A flipped bit makes a byte another one. -/
theorem xor_twoPow_ne (b : Byte) {j : Nat} (h : j < 8) : b ^^^ BitVec.twoPow 8 j ≠ b := by
  intro same
  have bit := congrArg (fun x => x.getLsbD j) same
  simp [h] at bit

theorem twoPow_ne_zero {j : Nat} (h : j < 8) : BitVec.twoPow 8 j ≠ 0 := by
  intro zero
  have bit := congrArg (fun x => x.getLsbD j) zero
  simp [h] at bit

/-- A flip in byte `k` of a frame that passes the length test fails it exactly when the test is on and the byte is the
length byte. -/
theorem lengthFails_flip {lenCheck : Bool} {f : List Byte} {k j : Nat} (hj : j < 8) (three : 3 ≤ f.length)
    (passes : ¬ LengthFails lenCheck f) :
    LengthFails lenCheck (f.modify k (fun b => b ^^^ BitVec.twoPow 8 j)) ↔ lenCheck = true ∧ k = 1 := by
  have size : (f.modify k (fun b => b ^^^ BitVec.twoPow 8 j)).length = f.length := List.length_modify ..
  have byte1 : (f.modify k (fun b => b ^^^ BitVec.twoPow 8 j))[1]? =
      if k = 1 then some (f[1] ^^^ BitVec.twoPow 8 j) else f[1]? := by
    rw [List.getElem?_modify, List.getElem?_eq_getElem (by omega)]
    split <;> rfl
  unfold LengthFails
  rw [size, byte1]
  by_cases hk : k = 1
  · rw [if_pos hk]
    refine ⟨fun fails => ⟨fails.1, hk⟩, fun flips => ⟨flips.1, fun b hb same => ?_⟩⟩
    have counted : f[1].toNat = f.length - 3 := by
      by_contra miscounted
      refine passes ⟨flips.1, fun c hc => ?_⟩
      rw [List.getElem?_eq_getElem (by omega)] at hc
      exact Option.some.inj hc ▸ miscounted
    have unflipped : b = f[1] := BitVec.eq_of_toNat_eq (same.trans counted.symm)
    exact xor_twoPow_ne f[1] hj ((Option.some.inj hb).trans unflipped)
  · rw [if_neg hk]
    exact ⟨fun fails => absurd fails passes, fun flips => absurd flips.2 hk⟩

/-- Settles O9: a pattern that does not sum to zero leaves a sum that is not zero, and a flip of the length byte fails the
length test first, where it is on. -/
theorem singleBitFlipIsDetected : Obligations.SingleBitFlipIsDetected := by
  intro lenCheck f p hp
  obtain ⟨three, passes, sum⟩ := (decodeFrame_accepts_iff lenCheck f).mp ⟨p, hp⟩
  constructor
  · intro k j hk hj
    have three' : 3 ≤ (f.modify k (fun b => b ^^^ BitVec.twoPow 8 j)).length := by rwa [List.length_modify]
    split
    · next flipsLength =>
      exact decodeFrame_of_lengthFails three' ((lengthFails_flip hj three passes).mpr flipsLength)
    · next elsewhere =>
      refine decodeFrame_of_sum_ne three' (mt (lengthFails_flip hj three passes).mp elsewhere) ?_
      rw [checksum_modify_xor _ hk, sum, zero_xor_byte]
      exact twoPow_ne_zero hj
  · intro e j he odd
    have uneven : checksum e ≠ 0 := fun zero => by
      have even := (checksum_eq_zero_iff_even e).mp zero j
      omega
    have refused : ¬ ∃ q, decodeFrame lenCheck (List.zipWith (fun a b => a ^^^ b) f e) = .ok q := by
      rw [decodeFrame_accepts_iff, checksum_zipWith_xor he, sum, zero_xor_byte]
      exact fun h => uneven h.2.2
    cases hd : decodeFrame lenCheck (List.zipWith (fun a b => a ^^^ b) f e) with
    | ok q => exact absurd ⟨q, hd⟩ refused
    | corrupt c => exact ⟨c, rfl⟩

/-- Settles O10: neither an even pattern nor a reordering changes the count or the sum of the bytes. -/
theorem evenFlipsAreUndetected : Obligations.EvenFlipsAreUndetected := by
  intro f p hp
  obtain ⟨three, -, sum⟩ := (decodeFrame_accepts_iff false f).mp ⟨p, hp⟩
  constructor
  · intro e he even
    refine (decodeFrame_accepts_iff false _).mpr ⟨?_, not_lengthFails_false _, ?_⟩
    · rwa [List.length_zipWith, he, Nat.min_self]
    · rw [checksum_zipWith_xor he, sum, (checksum_eq_zero_iff_even e).mpr even, zero_xor_byte]
  · intro g hg
    exact (decodeFrame_accepts_iff false g).mpr
      ⟨hg.length_eq ▸ three, not_lengthFails_false g, (checksum_perm hg).trans sum⟩

end Sys2Proof.Machine
end

