-- ==== Sys2Proof/Proofs/Moves.lean ====
section
/-! SUPPORT. Which move a step makes (R52, R130, R220), the moves that change nothing, and the host's read of the result
registers (R13, R22). -/

namespace Sys2Proof.Machine

open Sys2Proof

/-! ### Runs -/

theorem run_succ {s t : State} {k : Nat} (h : step s = .next t) :
    Sys2Proof.core.run (k + 1) s = Sys2Proof.core.run k t := by
  have first : Sys2Proof.core.step s = .next t := h
  simp only [Host.Core.run, first]

/-! ### The transceiver's own move (R130) -/

/-- With no request to take, the transceiver moves. -/
theorem fetch_of_pending_nil {s : State} (h : s.host.pending = []) : fetch s = fetchFsm s := by
  rw [fetch, h]

/-- A quiet entry, and a stuck host's entry, leave the move to the transceiver (R52, U15). -/
theorem fetch_of_pending_idle {s : State} {r : Request} {rest : List Request} (h : s.host.pending = r :: rest)
    (hr : r = .quiet ∨ (s.host.waiter = .stuck ∧ r.fromHost = true)) : fetch s = fetchFsm (s.popTo rest) := by
  rcases hr with rfl | stuck
  · simp [fetch, h, Request.fromHost, fetchRequest]
  · simp [fetch, h, stuck]

/-- The transceiver's move runs the instruction of ST, if one is enabled. -/
theorem step_of_fetchFsm {s u : State} (h : fetch s = fetchFsm u) :
    (∀ i, u.block.st.instr = some i → step s = exec i u) ∧ (u.block.st.instr = none → step s = .next u) := by
  refine ⟨fun i hi => ?_, fun hi => ?_⟩
  · rw [step, h, fetchFsm_eq, hi]
  · rw [step, h, fetchFsm_eq, hi]

theorem step_of_selected {s : State} {i : Instr} (pending : s.host.pending = [])
    (selected : s.block.st.instr = some i) : step s = exec i s :=
  (step_of_fetchFsm (fetch_of_pending_nil pending)).1 i selected

/-- Settles O5: in both cases the move is the transceiver's, which `step_of_fetchFsm` runs. -/
theorem stepRunsStepOfSt : Obligations.StepRunsStepOfSt :=
  ⟨fun _ h => step_of_fetchFsm (fetch_of_pending_nil h),
    fun s _ rest h hr => step_of_fetchFsm (u := s.popTo rest) (fetch_of_pending_idle h hr)⟩

/-! ### A presented request -/

/-- The line's requests are not the host's. -/
theorem Request.fromHost_of_line {src : Source} (bs : List Byte) (h : src = .format ∨ src = .wire) :
    (Request.present src bs).fromHost = false := by
  rcases h with rfl | rfl <;> rfl

/-- A request that the host's hang does not hold back is answered. -/
theorem fetch_of_taken {s : State} {r : Request} {rest : List Request}
    (taken : s.host.waiter ≠ .stuck ∨ r.fromHost = false) (h : s.host.pending = r :: rest) :
    fetch s = fetchRequest r (s.popTo rest) := by
  rcases taken with free | line
  · exact fetch_of_pending free h
  · simp [fetch, h, line]

/-- Settles O4: the request is taken, and its bytes decode to the instruction that runs. -/
theorem stepRunsPresentedInstr : Obligations.StepRunsPresentedInstr := by
  intro s src bs i rest taken h decoded
  have request := fetch_of_taken (taken.imp_right (Request.fromHost_of_line bs)) h
  have run : fetchRequest (.present src bs) (s.popTo rest) = .run i (s.popTo rest) := by
    simp [fetchRequest, decoded]
  rw [step, request, run]
  rfl

/-! ### Steps that change nothing (R130, R133) -/

/-- Settles O25: each of the five asks first for its state of ST. -/
theorem unselectedStepsDoNotFire : Obligations.UnselectedStepsDoNotFire := by
  have unselected : ∀ {s : State} {st : St} {i : Instr}, st.instr = some i → s.block.st.instr ≠ some i →
      s.block.st ≠ st := fun hst hne e => hne (e ▸ hst)
  rintro s i (rfl | rfl | rfl | rfl | rfl) h
  · exact if_neg (unselected (st := .sending) rfl h)
  · exact if_neg (unselected (st := .awaiting) rfl h)
  · exact if_neg (unselected (st := .retrying) rfl h)
  · exact if_neg (unselected (st := .reawaiting) rfl h)
  · exact if_neg (unselected (st := .escalating) rfl h)

/-- The steps that make a transport call. -/
def CallingStep (i : Instr) : Prop := i = .send ∨ i = .recv ∨ i = .errsend ∨ i = .errrecv

/-- A step whose one transport call does not return leaves the machine where it is, selected or not (R133). -/
theorem CallingStep.exec_of_hang {i : Instr} (hi : CallingStep i) {s : State} (hang : s.transport.callsLeft = some 0) :
    exec i s = .next s := by
  have unread : s.receive = none := by rw [State.receive, (Transport.read_none_iff ..).mpr hang]
  rcases hi with rfl | rfl | rfl | rfl
  · rw [exec, execSend, (Transport.write_none_iff ..).mpr hang]; exact ite_self _
  · rw [exec, execRecv, unread]; exact ite_self _
  · rw [exec, execErrsend, (Transport.write_none_iff ..).mpr hang]; exact ite_self _
  · rw [exec, execErrrecv, unread]; exact ite_self _

/-- Settles O26: the step of ST is run, and its one transport call does not return. -/
theorem hangingTransportHoldsTheMachine : Obligations.HangingTransportHoldsTheMachine := by
  intro s hang st pending
  obtain ⟨i, selected, hi⟩ : ∃ i, s.block.st.instr = some i ∧ CallingStep i := by
    rcases st with st | st | st | st
    · exact ⟨.send, by rw [st]; rfl, .inl rfl⟩
    · exact ⟨.recv, by rw [st]; rfl, .inr (.inl rfl)⟩
    · exact ⟨.errsend, by rw [st]; rfl, .inr (.inr (.inl rfl))⟩
    · exact ⟨.errrecv, by rw [st]; rfl, .inr (.inr (.inr rfl))⟩
  rw [step_of_selected pending selected, hi.exec_of_hang hang]

/-! ### Operands wider than the port (U17) -/

theorem payFits_of_long {pay : List Byte} (h : 255 < pay.length) : ¬ payFits pay = true := by
  simpa [payFits] using h

theorem State.frameArrives_of_long {mnemonic : String} {id : Byte} {body : FrameBody} {s : State}
    (h : 255 < body.payload.length) : s.frameArrives mnemonic id body = .refused (.notExpressible mnemonic) :=
  if_neg (payFits_of_long h)

/-- Settles O19: each form asks first whether its operand fits. -/
theorem tooWideOperandsAreNotExpressible : Obligations.TooWideOperandsAreNotExpressible := by
  refine ⟨fun s id pay exp h => ?_, fun s raw h => ?_, fun s id body i h hi => ?_⟩
  · exact ⟨if_neg (payFits_of_long h), if_neg (payFits_of_long h), if_neg (payFits_of_long h)⟩
  · exact if_neg (by simpa [rawFits] using h)
  · rcases hi with rfl | rfl | rfl | rfl | rfl | rfl | rfl | rfl | rfl | rfl | rfl <;>
      exact ⟨_, State.frameArrives_of_long h⟩

/-! ### The host's read of the result registers (R13, R22) -/

/-- A read that the registers answer tells the host the packet and does nothing else. -/
theorem step_readResult {s : State} {rest : List Request} {p : Packet} (free : s.host.waiter ≠ .stuck)
    (h : s.host.pending = .readResult :: rest) (hp : s.block.hostRead = some p) :
    step s = .next ((s.popTo rest).tell (.packet p)) := by
  have answer : fetchRequest .readResult (s.popTo rest) = .moved ((s.popTo rest).tell (.packet p)) := by
    simp [fetchRequest, hp]
  rw [step, fetch_of_pending free h, answer]

/-- A read of invalidated registers stops the machine. -/
theorem step_readResult_of_none {s : State} {rest : List Request} (free : s.host.waiter ≠ .stuck)
    (h : s.host.pending = .readResult :: rest) (hp : s.block.hostRead = none) : step s = .fault .noValue := by
  have answer : fetchRequest .readResult (s.popTo rest) = .stops .noValue := by simp [fetchRequest, hp]
  rw [step, fetch_of_pending free h, answer]

/-- Settles O47: RES_VALID and ST decide what `Block.hostRead` answers. -/
theorem resultIsReadOnlyWhenValid : Obligations.ResultIsReadOnlyWhenValid :=
  fun _ _ free h =>
    ⟨fun valid => step_readResult free h (if_pos (.inl valid)),
     fun invalid notIdle => step_readResult_of_none free h (if_neg (by simp [invalid, notIdle]))⟩

/-- Settles O48: IDLE answers the registers as they stand; after a reset request those are the values of `Block.reset`. -/
theorem resultReadAfterResetGivesResetValues : Obligations.ResultReadAfterResetGivesResetValues := by
  constructor
  · intro s rest free h idle
    exact step_readResult free h (if_pos (.inr idle))
  · intro s rest h
    have first := step_reset h
    have second : step (s.popTo (.readResult :: rest)).resetBlock = _ :=
      step_readResult (rest := rest) (p := Block.reset.resultPacket) (by simp) rfl rfl
    rw [run_succ first, run_succ second]
    rfl

end Sys2Proof.Machine
end

