-- ==== Sys2Proof/Proofs/Wire.lean ====
section
/-! SUPPORT. The receive side of the transport (R43 to R46) and the frames that come in on the line (R70, R76, R134). -/

namespace Sys2Proof.Machine

open Sys2Proof

/-! ### RxRead and RxWaiting (R43, R45) -/

/-- Settles O40: `Transport.read_some` says what the answer and the queue are after the arrival; the two are its front
and its rest. -/
theorem readTakesTheFrontOfTheQueue : Obligations.ReadTakesTheFrontOfTheQueue := by
  intro t u n r h
  obtain ⟨-, atMost, history, -, zero, positive⟩ := Transport.read_some h
  refine ⟨atMost, history, zero, fun hn => ?_⟩
  obtain ⟨front, rest⟩ := positive hn
  refine ⟨by rw [front, rest, List.take_append_drop], fun short => ?_⟩
  rw [rest, List.drop_eq_nil_iff]
  rw [front, List.length_take] at short
  omega

/-- Settles O42: `Transport.waiting_some` says what the call does, and a count writes nothing. -/
theorem waitingCountsTheQueue : Obligations.WaitingCountsTheQueue := by
  intro t u k h
  obtain ⟨-, count, queue, history, -⟩ := Transport.waiting_some h
  exact ⟨count, queue, history, (Transport.waiting_sent_received h).1⟩

theorem Transport.waiting_returns {t : Transport} (h : t.callsLeft ≠ some 0) : ∃ k u, t.waiting = some (k, u) := by
  obtain ⟨⟨k, u⟩, hw⟩ := Option.ne_none_iff_exists'.mp (mt t.waiting_none_iff.mp h)
  exact ⟨k, u, hw⟩

/-- The arrival that loses what waits and brings `bs` in instead. -/
def Transport.replacing (bs : List Byte) (t : Transport) : Transport :=
  { t with arrivals := ⟨t.rxQueue.length, bs⟩ :: t.arrivals }

/-- After it the queue holds `bs`. -/
theorem Transport.replacing_queue (bs : List Byte) (t : Transport) :
    (t.replacing bs).rxQueue.drop (t.replacing bs).draw.1.lost ++ (t.replacing bs).draw.1.bytes = bs := by
  have all_lost : t.rxQueue.drop t.rxQueue.length = [] := List.drop_length
  simp [Transport.replacing, Transport.draw, all_lost]

/-- Settles O41: the queue is lost whole and replaced by the answer wanted, or by as many bytes as wanted. -/
theorem transportAnswersAreFree : Obligations.TransportAnswersAreFree := by
  constructor
  · intro t n r calls atMost
    obtain ⟨r', u, hr⟩ := Transport.read_returns (t := t.replacing r) n calls
    obtain ⟨-, -, -, -, zero, positive⟩ := Transport.read_some hr
    have answer : r' = r := by
      rcases Nat.eq_zero_or_pos n with rfl | hn
      · rw [(zero rfl).1, List.length_eq_zero_iff.mp (Nat.le_zero.mp atMost)]
      · rw [(positive hn).1, Transport.replacing_queue, List.take_of_length_le atMost]
    exact ⟨_, u, answer ▸ hr⟩
  · intro t k calls
    obtain ⟨k', u, hw⟩ := Transport.waiting_returns (t := t.replacing (List.replicate k 0)) calls
    obtain ⟨-, count, queue, -⟩ := Transport.waiting_some hw
    have answer : k' = k := by rw [count, queue, Transport.replacing_queue, List.length_replicate]
    exact ⟨_, u, answer ▸ hw⟩

/-! ### Frame rows (R70, R75 to R78) -/

theorem State.frameArrives_of_fits {mnemonic : String} {id : Byte} {body : FrameBody} {s : State}
    (h : body.payload.length ≤ 255) : s.frameArrives mnemonic id body = .next (s.arrive (lineBytes id body)) :=
  if_pos (decide_eq_true h)

/-- Settles O38: each row has its id, and then all are `State.frameArrives`. -/
theorem frameRowsFillTheReceiveQueue : Obligations.FrameRowsFillTheReceiveQueue := by
  intro s id body i h hi
  rcases hi with rfl | rfl | rfl | ⟨rfl, rfl⟩ | ⟨rfl, rfl⟩ | ⟨rfl, rfl⟩ | ⟨rfl, rfl⟩ | ⟨rfl, rfl⟩ | ⟨rfl, rfl⟩ |
    ⟨rfl, rfl⟩ | ⟨rfl, rfl⟩ <;> exact State.frameArrives_of_fits h

/-! ### An intact frame answers the read (R134) -/

/-- A frame with its right checksum is ENCODE's frame (R102). -/
theorem lineBytes_of_intact {id : Byte} {body : FrameBody}
    (h : body.checksum = id ^^^ lenByte body.payload ^^^ checksum body.payload) :
    lineBytes id body = encodeFrame id body.payload := by
  rw [encodeFrame_eq, lineBytes, h]
  rfl

/-- When the line brings nothing more, a read of as many bytes as wait takes them all. -/
theorem Transport.read_all {t : Transport} {rest : List Arrival} {n : Nat} (calls : t.callsLeft ≠ some 0)
    (quiet : t.arrivals = ⟨0, []⟩ :: rest) (hn : t.rxQueue.length = n) :
    ∃ u, t.read n = some (t.rxQueue, u) ∧ u.rxQueue = [] := by
  obtain ⟨r, u, hr⟩ := Transport.read_returns n calls
  obtain ⟨-, -, -, -, zero, positive⟩ := Transport.read_some hr
  have arrival : t.draw.1 = ⟨0, []⟩ := by simp [Transport.draw, quiet]
  rw [arrival, List.drop_zero, List.append_nil] at positive
  rcases Nat.eq_zero_or_pos n with rfl | pos
  · have empty : t.rxQueue = [] := List.length_eq_zero_iff.mp hn
    rw [empty]
    exact ⟨u, (zero rfl).1 ▸ hr, (zero rfl).2.trans empty⟩
  · have answer : r = t.rxQueue := (positive pos).1.trans (List.take_of_length_le hn.le)
    exact ⟨u, answer ▸ hr, (positive pos).2.trans (List.drop_of_length_le hn.le)⟩

/-- The class of ENCODE's own frame, read whole: Err for 0xFF, else Good with its fields (R123). -/
theorem rxClass_encodeFrame (lenCheck : Bool) (id : Byte) {pay : List Byte} (h : pay.length ≤ 255) :
    rxClass lenCheck (encodeFrame id pay) (pay.length + 3) =
      if id = Config.idRxError then .err
      else .good ⟨id, lenByte pay, pay, id ^^^ lenByte pay ^^^ checksum pay⟩ :=
  rxClass_of_ok (encodeFrame_length id pay).ge (decodeFrame_encodeFrame lenCheck id h)

/-- Settles O39: the frame is what RECV reads (`Transport.read_all`), its class is `rxClass_encodeFrame`, and RECV's
writes for that class are those of `State.afterRecv`. -/
theorem arrivedFrameAnswersTheRead : Obligations.ArrivedFrameAnswersTheRead := by
  rintro s id body st queue calls ⟨rest, quiet⟩ fits exp intact
  rw [← checksum_eq_foldl] at intact
  have line : lineBytes id body = encodeFrame id body.payload := lineBytes_of_intact intact
  have arrived : (s.arrive (lineBytes id body)).transport.rxQueue = encodeFrame id body.payload := by
    simp [queue, line]
  obtain ⟨u, hr, drained⟩ := Transport.read_all (n := s.block.expLen.toNat)
    (t := (s.arrive (lineBytes id body)).transport) calls quiet (by rw [arrived, encodeFrame_length, exp])
  rw [arrived] at hr
  have recv := exec_recv (s := s.arrive (lineBytes id body)) st hr
  rw [State.arrive_block, exp, rxClass_encodeFrame _ id fits] at recv
  refine ⟨_, _, State.frameArrives_of_fits fits, recv, ?_, fun good => ?_, fun err left => ?_, fun err spent => ?_⟩
  · rw [State.afterRecv_transport]
    exact drained
  · rw [if_neg good]
    obtain ⟨-, -, -, entered⟩ := succeed_holding_frame ⟨id, lenByte body.payload, body.payload,
      id ^^^ lenByte body.payload ^^^ checksum body.payload⟩ (encodeFrame id body.payload) u
      (s.arrive (lineBytes id body))
    refine ⟨congrArg Block.st entered, (congrArg Block.result entered).trans ?_⟩
    rw [Block.succeed_result _ _ (show body.payload.length < 512 by omega), intact]
    rfl
  · rw [if_pos err, State.afterRecv_err_of_lt]
    · rfl
    · exact left
  · rw [if_pos err, State.afterRecv_err_of_not_lt]
    · exact ⟨rfl, rfl⟩
    · exact spent

end Sys2Proof.Machine
end

