-- ==== Sys2Proof/Proofs/Commands.lean ====
section
/-! SUPPORT. The three commands of the host layer in R160's order: arguments, CHECK_RESET, START. -/

namespace Sys2Proof.Machine

open Sys2Proof

/-! ### Arguments (R162 to R164, D19) -/

theorem exec_setLeds (s : State) {mask : Byte} (h : mask ≤ 7) :
    exec (.setLeds mask) s = .next (s.command .setLeds s.cfg.idSetLed (ledPayload mask) Config.responseAtr) :=
  if_neg (BitVec.not_lt.mpr h)

theorem exec_beep (s : State) {tones : List Tone} (again : Bool) (h : tones.length ≤ 8) :
    exec (.beep tones again) s =
      .next (s.command .beep s.cfg.idBeep (beepPayload s.cfg.toneEndian tones again) Config.responseAtr) :=
  if_neg (Nat.not_lt.mpr h)

theorem exec_rfidSend (s : State) {pay : List Byte} (h : pay.length ≤ 128) :
    exec (.rfidSend pay) s = .next (s.command .rfidSend s.cfg.idRfidSend pay (rfidExp pay)) :=
  if_neg (Nat.not_lt.mpr h)

/-- A command whose argument passes its check. -/
def GoodCommand (i : Instr) : Prop :=
  (∃ mask : Byte, mask ≤ 7 ∧ i = .setLeds mask) ∨ (∃ tones again, tones.length ≤ 8 ∧ i = .beep tones again) ∨
    (∃ pay, pay.length ≤ 128 ∧ i = .rfidSend pay)

/-- With good arguments each command goes on to CHECK_RESET and TRANSCEIVE (R160). -/
theorem GoodCommand.exec {i : Instr} (h : GoodCommand i) (s : State) :
    ∃ w id pay exp, exec i s = .next (s.command w id pay exp) := by
  rcases h with ⟨mask, hm, rfl⟩ | ⟨tones, again, ht, rfl⟩ | ⟨pay, hp, rfl⟩
  · exact ⟨_, _, _, _, exec_setLeds s hm⟩
  · exact ⟨_, _, _, _, exec_beep s again ht⟩
  · exact ⟨_, _, _, _, exec_rfidSend s hp⟩

/-- Settles O36: the mask is tested before any call, and telling the host writes its reply and no other field. -/
theorem wideMaskIsAValidationError : Obligations.WideMaskIsAValidationError :=
  fun _ _ h => if_pos h

/-! ### How CHECK_RESET leaves a command (R161) -/

theorem Transport.checkReset_of_waiting_none {t : Transport} (h : t.waiting = none) : t.checkReset = (.hangs, t) := by
  rw [Transport.checkReset, h]

theorem Transport.checkReset_of_read_none {t u : Transport} (hw : t.waiting = some (5, u)) (hr : u.read 5 = none) :
    t.checkReset = (.hangs, u) := by
  rw [Transport.checkReset, hw]
  dsimp only
  rw [if_pos rfl, hr]

section
variable {s : State} {t : Transport} (w : Waiter) (id : Byte) (pay : List Byte) (exp : BitVec 9)

theorem State.command_of_hangs (h : s.transport.checkReset = (.hangs, t)) :
    s.command w id pay exp = (s.setTransport t).await .stuck := by
  rw [State.command, h]

theorem State.command_of_failed {e : DriverError} (h : s.transport.checkReset = (.failed e, t)) :
    s.command w id pay exp = (s.setTransport t).tell (.error e) := by
  rw [State.command, h]

theorem State.command_of_proceed (h : s.transport.checkReset = (.proceed, t)) :
    s.command w id pay exp = (s.setTransport t).startOrBusy w id pay exp := by
  rw [State.command, h]

/-- With no reset found and no transaction running, the command's own transaction starts. -/
theorem State.command_starts {k : Nat} (hw : s.transport.waiting = some (k, t)) (hk : k ≠ 5)
    (st : s.block.st = .idle ∨ s.block.st = .success ∨ s.block.st = .faulted) :
    s.command w id pay exp =
      { s with
        transport := t
        block := s.block.start id pay exp
        host := { s.host with waiter := w, reply := .started } } := by
  rw [State.command_of_proceed _ _ _ _ (Transport.checkReset_of_ne_five hw hk),
    State.startOrBusy_of_accepts (s := s.setTransport t) _ _ _ _ (s.block.accepts_iff.mpr st)]
  rfl

end

/-- CHECK_RESET by itself marks the host stuck as a command does. -/
theorem exec_checkReset_of_hangs {s : State} {t : Transport} (h : s.transport.checkReset = (.hangs, t)) :
    exec .checkReset s = .next ((s.setTransport t).await .stuck) := by
  rw [exec, execCheckReset, h]

/-- Settles O31: either call's hang is CHECK_RESET's, and CHECK_RESET's hang is the procedure's. -/
theorem hangingTransportHoldsTheHost : Obligations.HangingTransportHoldsTheHost := by
  intro s i hi
  have stuck : ∀ t, s.transport.checkReset = (.hangs, t) → exec i s = .next ((s.setTransport t).await .stuck) := by
    intro t h
    rcases hi with rfl | hi
    · exact exec_checkReset_of_hangs h
    · obtain ⟨w, id, pay, exp, e⟩ := GoodCommand.exec hi s
      rw [e, State.command_of_hangs _ _ _ _ h]
  exact ⟨fun hw => stuck _ (Transport.checkReset_of_waiting_none hw),
    fun u hw hr => stuck u (Transport.checkReset_of_read_none hw hr)⟩

/-- Settles O37: after a drain the command ends with `drainError` and START is not reached; otherwise START is, and a
running transaction refuses it. -/
theorem commandsStopAtTheFirstFailure : Obligations.CommandsStopAtTheFirstFailure := by
  intro s i hi w u hw
  obtain ⟨waiter, id, pay, exp, e⟩ := GoodCommand.exec hi s
  rw [e]
  constructor
  · rintro r v rfl hr
    refine ⟨(Transport.read_sent_received hr).1.trans (Transport.waiting_sent_received hw).1, ?_⟩
    rw [State.command_of_failed _ _ _ _ (Transport.checkReset_of_five hw hr), drainError, apply_ite Reply.error]
    rfl
  · intro hk idle success faulted
    have busy : s.block.accepts = false := by simp [Block.accepts, idle, success, faulted]
    rw [State.command_of_proceed _ _ _ _ (Transport.checkReset_of_ne_five hw hk),
      State.startOrBusy_of_busy (s := s.setTransport u) _ _ _ _ busy]
    rfl

/-! ### The transactions that the commands start (R162 to R164) -/

/-- Settles O32: `State.command_starts` with SET_LED's operands. -/
theorem setLedsStartsItsTransaction : Obligations.SetLedsStartsItsTransaction := by
  intro s mask w u hm hw hk st
  rw [exec_setLeds s hm, State.command_starts _ _ _ _ hw hk st]
  rfl

/-- Settles O34: `State.command_starts` with RFID_SEND's operands; three more than 128 fit EXP_LEN. -/
theorem rfidSendStartsItsTransaction : Obligations.RfidSendStartsItsTransaction := by
  intro s pay w u hp hw hk st
  have fits : (rfidExp pay).toNat = pay.length + 3 := Nat.mod_eq_of_lt (show pay.length + 3 < 512 by omega)
  exact ⟨_, (exec_rfidSend s hp).trans (congrArg _ (State.command_starts _ _ _ _ hw hk st)), fits, rfl⟩

theorem extract_high (v : BitVec 16) : v.extractLsb' 8 8 = BitVec.ofNat 8 (v.toNat / 256) := by
  apply BitVec.eq_of_toNat_eq
  simp [Nat.shiftRight_eq_div_pow]

theorem extract_low (v : BitVec 16) : v.extractLsb' 0 8 = BitVec.ofNat 8 v.toNat := by
  apply BitVec.eq_of_toNat_eq
  simp

/-- A tone's four bytes, by arithmetic (R163). -/
theorem toneBytes_big (t : Tone) :
    toneBytes .big t = [BitVec.ofNat 8 (t.freq.toNat / 256), BitVec.ofNat 8 t.freq.toNat,
      BitVec.ofNat 8 (t.dur.toNat / 256), BitVec.ofNat 8 t.dur.toNat] := by
  simp only [toneBytes, bytes16, extract_high, extract_low, List.cons_append, List.nil_append]

theorem toneBytes_little (t : Tone) :
    toneBytes .little t = [BitVec.ofNat 8 t.freq.toNat, BitVec.ofNat 8 (t.freq.toNat / 256),
      BitVec.ofNat 8 t.dur.toNat, BitVec.ofNat 8 (t.dur.toNat / 256)] := by
  simp only [toneBytes, bytes16, extract_high, extract_low, List.cons_append, List.nil_append]

theorem beepPayload_length (e : Endian) (tones : List Tone) (again : Bool) :
    (beepPayload e tones again).length = 4 * tones.length + 1 := by
  have four : ∀ t, (toneBytes e t).length = 4 := by
    intro t
    cases e with
    | big => rw [toneBytes_big]; rfl
    | little => rw [toneBytes_little]; rfl
  simp [beepPayload, List.length_flatMap, four, Nat.mul_comm]

/-- Settles O33: `State.command_starts` with BEEP's operands; the payload's bytes are `toneBytes_big` or
`toneBytes_little`, its count `beepPayload_length`. -/
theorem beepStartsItsTransaction : Obligations.BeepStartsItsTransaction := by
  intro s tones again w u ht hw hk st
  rw [exec_beep s again ht, State.command_starts _ _ _ _ hw hk st, Block.start, lenByte, beepPayload_length, beepPayload,
    List.flatMap_def]
  cases s.cfg.toneEndian with
  | big => rw [funext toneBytes_big]
  | little => rw [funext toneBytes_little]

end Sys2Proof.Machine
end

