-- ==== Sys2Proof/Proofs/Outcome.lean ====
section
/-! SUPPORT. The ends of a transaction: the entry into a fault (R198), what the waiting procedure is told (R128, R160,
R195), and that the free parameters have no part in either (R75, D6). -/

namespace Sys2Proof.Machine

open Sys2Proof

/-! ### The entry into a fault (R198) -/

/-- ST goes into ESCALATING, or from there into FAULTED. -/
def FaultEntry (b b' : Block) : Prop :=
  b.st ≠ .escalating ∧ b'.st = .escalating ∨ b.st = .escalating ∧ b'.st = .faulted

/-- The rows of the table that enter a fault write CAUSE and ST, and the receive buffer holds the read. -/
theorem Transition.faultEntry_frame {lenCheck : Bool} {b b' : Block} (row : Transition lenCheck b b')
    (h : FaultEntry b b') :
    b' = { b with st := b'.st, cause := b'.cause, rxBuf := b'.rxBuf } ∧ (b.st = .escalating → b'.cause = b.cause) := by
  cases row with
  | stays => exact ⟨rfl, fun _ => rfl⟩
  | exhaust r _ st _ => exact ⟨rfl, fun esc => by simp [esc] at st⟩
  | echo r _ st => exact ⟨rfl, fun esc => by simp [esc] at st⟩
  | escalate _ => exact ⟨rfl, fun _ => rfl⟩
  | start | send | succeed | sendAgain | enterInner | errSend | retry => simp [FaultEntry] at h

/-- The entry into ESCALATING follows a read of EXP_LEN bytes, the entry into FAULTED no call. -/
theorem BlockMove.faultEntry_transport {s t : State} (move : BlockMove s t) (h : FaultEntry s.block t.block) :
    (s.block.st = .escalating → t.transport = s.transport) ∧
      (s.block.st ≠ .escalating → ∃ r, s.transport.read s.block.expLen.toNat = some (r, t.transport)) := by
  cases move with
  | stays hb _ =>
    rw [hb] at h
    rcases h with h | h
    · exact absurd h.2 h.1
    · exact absurd (h.1.symm.trans h.2) (by decide)
  | starts _ _ _ _ _ hb => simp [FaultEntry, hb] at h
  | sends _ hb _ => simp [FaultEntry, hb] at h
  | receives r u hs hr ht =>
    rw [ht, State.afterRecv_transport]
    exact ⟨fun esc => by simp [hs] at esc, fun _ => ⟨r, hr⟩⟩
  | errSends _ hb _ => simp [FaultEntry, hb] at h
  | errReceives r u hs hr ht =>
    rw [ht, State.afterErrRecv_transport]
    exact ⟨fun esc => by simp [hs] at esc, fun _ => ⟨r, hr⟩⟩
  | escalates hs ht =>
    rw [ht]
    exact ⟨fun _ => s.faulted_transport, fun ne => absurd hs ne⟩

/-- Settles O27: the registers by the row of the table, the call by the move. -/
theorem faultEntryWritesCauseAndStOnly : Obligations.FaultEntryWritesCauseAndStOnly := by
  intro s t i _ h entry
  have move := (exec_move h).2
  obtain ⟨registers, cause⟩ := move.transition.faultEntry_frame entry
  obtain ⟨noCall, read⟩ := move.faultEntry_transport entry
  exact ⟨registers, fun esc => ⟨cause esc, noCall esc⟩, read⟩

/-! ### The entry into SUCCESS (R124, R126, R160) -/

/-- Only a Good answer enters SUCCESS. -/
theorem BlockMove.enters_success {s u : State} (move : BlockMove s u) (before : s.block.st ≠ .success)
    (after : u.block.st = .success) : ∃ p r t, u = (s.holding r t).succeed p := by
  cases move with
  | stays hb _ => exact absurd (hb ▸ after) before
  | starts _ _ _ _ _ hb => simp [hb] at after
  | sends _ hb _ => simp [hb] at after
  | receives r t _ _ hu =>
    obtain ⟨-, -, -, ⟨p, -, e, -⟩ | ⟨-, -, e⟩ | ⟨-, -, e⟩ | ⟨-, e⟩⟩ :=
      State.afterRecv_spec (rxClass s.cfg.lenCheck r s.block.expLen.toNat) (s.holding r t)
    · exact ⟨p, r, t, hu.trans e⟩
    all_goals rw [hu.trans e] at after; simp at after
  | errSends _ hb _ => simp [hb] at after
  | errReceives r t _ _ hu =>
    obtain ⟨-, -, -, ⟨p, -, e, -⟩ | ⟨-, e⟩ | ⟨-, -, e⟩ | ⟨-, -, -, e⟩ | ⟨-, -, -, e⟩⟩ :=
      State.afterErrRecv_spec (rxClass s.cfg.lenCheck r s.block.expLen.toNat) (s.holding r t)
    · exact ⟨p, r, t, hu.trans e⟩
    all_goals rw [hu.trans e] at after; simp at after
  | escalates _ hu => rw [hu, State.faulted_block] at after; simp at after

/-- A host that waits for nothing, or is stuck, is told nothing; any other waits no more and is told. -/
theorem State.conclude_host (r : Reply) (s : State) :
    (s.conclude r).host =
      if s.host.waiter = .nobody ∨ s.host.waiter = .stuck then s.host
      else { s.host with waiter := .nobody, reply := r } := by
  rcases s.conclude_spec r with ⟨idle, e⟩ | ⟨free, unstuck, e⟩
  · rw [e, if_pos idle]
  · rw [e, if_neg (by simp [free, unstuck])]

/-- What SUCCESS tells: the packet that the result registers then hold, as the waiting procedure takes it. -/
theorem State.succeed_host {p q : Packet} {s : State} (read : (s.succeed q).result = some p) :
    (s.succeed q).host =
      if s.host.waiter = .nobody ∨ s.host.waiter = .stuck then s.host
      else { s.host with waiter := .nobody, reply := successReply s.cfg s.host.waiter p } := by
  have packet : (s.block.succeed q).resultPacket = p :=
    Option.some.inj ((congrArg Block.result (s.succeed_block q)).symm.trans read)
  rw [State.succeed_eq, packet, State.conclude_host]
  rfl

/-- Settles O28: SUCCESS is entered by `State.succeed`, and `State.succeed_host` tells by who waits. -/
theorem successTellsTheWaitingProcedure : Obligations.SuccessTellsTheWaitingProcedure := by
  intro s u i p _ h before after result
  obtain ⟨q, r, t, rfl⟩ := (exec_move h).2.enters_success before after
  have host : ((s.holding r t).succeed q).host =
      if s.host.waiter = .nobody ∨ s.host.waiter = .stuck then s.host
      else { s.host with waiter := .nobody, reply := successReply s.cfg s.host.waiter p } := State.succeed_host result
  rw [host]
  refine ⟨fun w => ?_, fun w => ?_, fun w => ?_, fun unstuck => ?_, fun idle => if_pos idle⟩
  · simp [w, successReply]
  · rcases w with w | w <;> simp [w, successReply]
  · simp [w, successReply]
  · split
    · next idle => exact idle.resolve_right unstuck
    · rfl

/-- Settles O29: FAULTED concludes with the cause that CAUSE holds. -/
theorem faultTellsTheWaitingProcedure : Obligations.FaultTellsTheWaitingProcedure := by
  intro s st waits
  have told : ∀ c, s.block.cause.toReader = some c → exec .escalate s = .next { s with
      block := { s.block with st := .faulted }
      host := { s.host with waiter := .nobody, reply := .error (.readerFault c) } } := by
    intro c hc
    rcases (s.setBlock (s.block.goto .faulted)).conclude_spec (.error (.readerFault c)) with ⟨idle, -⟩ | ⟨-, -, e⟩
    · rcases waits with w | w | w | w <;> simp [w] at idle
    · rw [exec_escalate st, State.faulted_eq hc, e]
      rfl
  exact ⟨fun cause => told _ (by rw [cause]; rfl), fun cause => told _ (by rw [cause]; rfl)⟩

end Sys2Proof.Machine
end

