-- ==== Sys2Proof/Proofs/Independence.lean ====
section
/-! SUPPORT. The OPEN ids and TONE_ENDIAN have no part in the codec and the transceiver (R75, D6). -/

namespace Sys2Proof.Machine

open Sys2Proof

/-- The same machine with other parameters. -/
def State.withCfg (c : Config) (s : State) : State := { s with cfg := c }

section
variable (c : Config) (s : State)

/-! ### Operations that commute with the change of parameters -/

theorem State.startOrBusy_withCfg (w : Waiter) (id : Byte) (pay : List Byte) (exp : BitVec 9) :
    (s.withCfg c).startOrBusy w id pay exp = (s.startOrBusy w id pay exp).withCfg c := by
  cases h : s.block.accepts with
  | true =>
    rw [State.startOrBusy_of_accepts w id pay exp h,
      State.startOrBusy_of_accepts (s := s.withCfg c) w id pay exp h]
    rfl
  | false =>
    rw [State.startOrBusy_of_busy w id pay exp h, State.startOrBusy_of_busy (s := s.withCfg c) w id pay exp h]
    rfl

theorem State.conclude_withCfg (r : Reply) : (s.withCfg c).conclude r = (s.conclude r).withCfg c := by
  rcases s with ⟨_, _, _, ⟨waiter, _, _⟩⟩
  cases waiter <;> rfl

theorem State.faulted_withCfg : (s.withCfg c).faulted = s.faulted.withCfg c := by
  cases h : s.block.cause.toReader with
  | none =>
    rw [State.faulted_of_noCause h, State.faulted_of_noCause (s := s.withCfg c) h]
    rfl
  | some k =>
    rw [State.faulted_eq h, State.faulted_eq (s := s.withCfg c) h]
    exact State.conclude_withCfg c (s.setBlock (s.block.goto .faulted)) _

/-- What a class writes into the block does not ask for the parameters. -/
theorem State.afterRecv_withCfg_block (k : RxClass) : ((s.withCfg c).afterRecv k).block = (s.afterRecv k).block := by
  cases k with
  | good p => exact (State.succeed_block p (s.withCfg c)).trans (s.succeed_block p).symm
  | err =>
    by_cases left : s.block.oc < 2
    · rw [State.afterRecv_err_of_lt left, State.afterRecv_err_of_lt (s := s.withCfg c) left]
      rfl
    · rw [State.afterRecv_err_of_not_lt left, State.afterRecv_err_of_not_lt (s := s.withCfg c) left]
      rfl
  | fail => rfl

theorem State.afterErrRecv_withCfg_block (k : RxClass) :
    ((s.withCfg c).afterErrRecv k).block = (s.afterErrRecv k).block := by
  cases k with
  | good p => exact (State.succeed_block p (s.withCfg c)).trans (s.succeed_block p).symm
  | err => rfl
  | fail => rw [State.afterErrRecv_fail, State.afterErrRecv_fail]; rfl

end

/-! ### The instructions (R75) -/

/-- No two states of ST enable the same step (R130). -/
theorem St.eq_of_instr {st st' : St} {i : Instr} (h : st.instr = some i) (h' : st'.instr = some i) : st = st' := by
  cases st <;> cases h <;> cases st' <;> simp [St.instr] at h' ⊢

section
variable {s t : State} {c : Config} {i : Instr}

/-- A step that is not selected, or whose call does not return, leaves the machine with other parameters alone too. -/
theorem exec_withCfg_of_held (hi : CallingStep i) (held : s.block.st.instr ≠ some i ∨ s.transport.callsLeft = some 0)
    (h : exec i s = .next t) : t = s ∧ exec i (s.withCfg c) = .next (s.withCfg c) := by
  have same : ∀ u : State, (u.block.st.instr ≠ some i ∨ u.transport.callsLeft = some 0) → exec i u = .next u := by
    rintro u (unselected | hang)
    · exact unselectedStepsDoNotFire u i (by unfold CallingStep at hi; tauto) unselected
    · exact hi.exec_of_hang hang
  rw [same s held] at h
  cases h
  exact ⟨rfl, same _ held⟩

/-- START and TRANSCEIVE latch operands, which no parameter enters (R121). -/
theorem exec_start_withCfg {id : Byte} {pay : List Byte} {exp : BitVec 9}
    (hi : i = .start id pay exp ∨ i = .transceive id pay exp) (h : exec i s = .next t) :
    exec i (s.withCfg c) = .next (t.withCfg c) := by
  by_cases fits : pay.length ≤ 255
  · rw [exec_start_or_transceive s fits hi] at h
    cases h
    rw [exec_start_or_transceive (s.withCfg c) fits hi, State.startOrBusy_withCfg]
  · obtain ⟨-, transceive, start⟩ := tooWideOperandsAreNotExpressible.1 s id pay exp (Nat.not_le.mp fits)
    rcases hi with rfl | rfl
    · rw [start] at h; cases h
    · rw [transceive] at h; cases h

/-- SEND and ERRSEND transmit what the block and the spec hold (R122, R125). -/
theorem exec_write_withCfg (hi : i = .send ∨ i = .errsend) (h : exec i s = .next t) :
    exec i (s.withCfg c) = .next (t.withCfg c) := by
  have calling : CallingStep i := hi.imp_right fun e => .inr (.inl e)
  by_cases held : s.block.st.instr ≠ some i ∨ s.transport.callsLeft = some 0
  · obtain ⟨rfl, e⟩ := exec_withCfg_of_held (c := c) calling held h
    exact e
  · obtain ⟨selected, calls⟩ := not_or.mp held
    rcases hi with rfl | rfl
    · have st : s.block.st = .sending := St.eq_of_instr (not_not.mp selected) rfl
      rw [exec_send st calls] at h
      cases h
      exact exec_send (s := s.withCfg c) st calls
    · have st : s.block.st = .retrying := St.eq_of_instr (not_not.mp selected) rfl
      rw [exec_errsend st calls] at h
      cases h
      exact exec_errsend (s := s.withCfg c) st calls

theorem exec_escalate_withCfg (h : exec .escalate s = .next t) :
    exec .escalate (s.withCfg c) = .next (t.withCfg c) := by
  by_cases st : s.block.st = .escalating
  · rw [exec_escalate st] at h
    cases h
    rw [exec_escalate (s := s.withCfg c) st, State.faulted_withCfg]
  · obtain rfl : s = t := Host.Outcome.next.inj ((if_neg st).symm.trans h)
    exact if_neg st

/-- ENCODE asks for no parameter, DECODE for LEN_CHECK alone (R102, R105). -/
theorem exec_codec_withCfg (checked : c.lenCheck = s.cfg.lenCheck)
    (hi : (∃ id pay, i = .encode id pay) ∨ (∃ raw, i = .decode raw)) (h : exec i s = .next t) :
    exec i (s.withCfg c) = .next (t.withCfg c) := by
  rcases hi with ⟨id, pay, rfl⟩ | ⟨raw, rfl⟩
  · by_cases fits : pay.length ≤ 255
    · rw [exec_encode s id fits] at h
      cases h
      exact exec_encode (s.withCfg c) id fits
    · rw [(tooWideOperandsAreNotExpressible.1 s id pay 0 (Nat.not_le.mp fits)).1] at h
      cases h
  · by_cases fits : raw.length ≤ 511
    · rw [exec_decode s fits, ← checked] at h
      cases h
      exact exec_decode (s.withCfg c) fits
    · rw [tooWideOperandsAreNotExpressible.2.1 s raw (Nat.not_le.mp fits)] at h
      cases h

/-- RECV and ERRRECV come to the same block and transport: the class needs LEN_CHECK alone (R123). -/
theorem exec_read_withCfg (checked : c.lenCheck = s.cfg.lenCheck) (hi : i = .recv ∨ i = .errrecv)
    (h : exec i s = .next t) :
    ∃ u, exec i (s.withCfg c) = .next u ∧ u.block = t.block ∧ u.transport = t.transport := by
  have calling : CallingStep i := by rcases hi with rfl | rfl <;> simp [CallingStep]
  by_cases held : s.block.st.instr ≠ some i ∨ s.transport.callsLeft = some 0
  · obtain ⟨rfl, e⟩ := exec_withCfg_of_held (c := c) calling held h
    exact ⟨_, e, rfl, rfl⟩
  · obtain ⟨selected, calls⟩ := not_or.mp held
    obtain ⟨r, u, read⟩ := Transport.read_returns s.block.expLen.toNat calls
    have checked' : (s.withCfg c).cfg.lenCheck = s.cfg.lenCheck := checked
    rcases hi with rfl | rfl
    · have st : s.block.st = .awaiting := St.eq_of_instr (not_not.mp selected) rfl
      rw [exec_recv st read] at h
      cases h
      refine ⟨_, exec_recv (s := s.withCfg c) st read, ?_, ?_⟩
      · rw [checked']; exact State.afterRecv_withCfg_block c (s.holding r u) _
      · rw [State.afterRecv_transport, State.afterRecv_transport]; rfl
    · have st : s.block.st = .reawaiting := St.eq_of_instr (not_not.mp selected) rfl
      rw [exec_errrecv st read] at h
      cases h
      refine ⟨_, exec_errrecv (s := s.withCfg c) st read, ?_, ?_⟩
      · rw [checked']; exact State.afterErrRecv_withCfg_block c (s.holding r u) _
      · rw [State.afterErrRecv_transport, State.afterErrRecv_transport]; rfl

end

/-- Settles O53: but for the two reads the step commutes with the change of parameters, host side included; the reads come
to the same block and transport. -/
theorem openIdsDoNotReachTheBlock : Obligations.OpenIdsDoNotReachTheBlock := by
  intro s c i checked hi t h
  by_cases reads : i = .recv ∨ i = .errrecv
  · obtain ⟨u, e, block, transport⟩ := exec_read_withCfg checked reads h
    exact ⟨u, e, block, transport, fun notRecv notErrrecv => absurd reads (by simp [notRecv, notErrrecv])⟩
  · suffices commutes : exec i (s.withCfg c) = .next (t.withCfg c) from ⟨_, commutes, rfl, rfl, fun _ _ => rfl⟩
    rcases hi with ⟨id, pay, exp, hi⟩ | hi | hi | hi | hi | rfl | hi | hi
    · exact exec_start_withCfg hi h
    · exact exec_write_withCfg (.inl hi) h
    · exact absurd (.inl hi) reads
    · exact exec_write_withCfg (.inr hi) h
    · exact absurd (.inr hi) reads
    · exact exec_escalate_withCfg h
    · exact exec_codec_withCfg checked (.inl hi) h
    · exact exec_codec_withCfg checked (.inr hi) h

end Sys2Proof.Machine
end

