-- ==== Sys2Proof/Proofs/Transaction.lean ====
section
/-! SUPPORT. A whole transaction: the transceiver's steps follow R129's two loops call by call, so what the loops do to the
transport, and how they end, holds of the machine. -/

namespace Sys2Proof.Machine

open Sys2Proof

/-! ### Runs that end -/

/-- How a transaction that is over stands: who waited has been told, and nothing moves any more. `short` is R131(d)'s
count where reads of `exp` bytes are too short for any answer. -/
structure Concluded (exp : Nat) (out : LoopEnd) (t : State) : Prop where
  waiter : t.host.waiter = .nobody
  pending : t.host.pending = []
  found : ∀ p, out = .found p → t.block.st = .success ∧ t.result = some p ∧ t.host.reply = .packet p
  failed : ∀ c, out = .failed c →
    t.block.st = .faulted ∧ t.block.cause = c ∧ ∃ k, c.toReader = some k ∧ t.host.reply = .error (.readerFault k)
  ended : out ≠ .exhausted
  short : exp < 3 → t.block.oc = 2 ∧ t.block.ic = 2

theorem Concluded.terminal {exp : Nat} {out : LoopEnd} {t : State} (h : Concluded exp out t) :
    t.block.st = .success ∨ t.block.st = .faulted := by
  cases out with
  | found p => exact .inl (h.found p rfl).1
  | failed c => exact .inr (h.failed c rfl).1
  | exhausted => exact absurd rfl h.ended

/-- From `k` steps on, runs from `s` have ended as the loops' result `r` says, with the transport the loops leave. -/
def EndsAs (exp k : Nat) (s : State) (r : Option (LoopEnd × Transport)) : Prop :=
  ∃ out t, (∀ j, k ≤ j → Sys2Proof.core.run j s = .next t) ∧ r = some (out, t.transport) ∧ Concluded exp out t

/-- In a terminal state with nothing pending the machine rests (R128). -/
theorem Concluded.rests {exp : Nat} {out : LoopEnd} {t : State} (h : Concluded exp out t) (j : Nat) :
    Sys2Proof.core.run j t = .next t := by
  have still : step t = .next t := by
    refine (step_of_fetchFsm (fetch_of_pending_nil h.pending)).2 ?_
    rcases h.terminal with st | st <;> rw [st] <;> rfl
  induction j with
  | zero => rfl
  | succ j ih => rw [run_succ still, ih]

theorem Concluded.endsAs {exp : Nat} {out : LoopEnd} {t : State} (h : Concluded exp out t) (k : Nat) :
    EndsAs exp k t (some (out, t.transport)) :=
  ⟨out, t, fun j _ => h.rests j, rfl, h⟩

theorem EndsAs.mono {exp k k' : Nat} {s : State} {r : Option (LoopEnd × Transport)} (h : EndsAs exp k s r) (hk : k ≤ k') :
    EndsAs exp k' s r := by
  obtain ⟨out, t, run, e, concluded⟩ := h
  exact ⟨out, t, fun j hj => run j (hk.trans hj), e, concluded⟩

theorem EndsAs.step {exp k : Nat} {s s' : State} {r : Option (LoopEnd × Transport)} (h : EndsAs exp k s' r)
    (hs : step s = .next s') : EndsAs exp (k + 1) s r := by
  obtain ⟨out, t, run, e, concluded⟩ := h
  refine ⟨out, t, fun j hj => ?_, e, concluded⟩
  obtain ⟨j, rfl⟩ := Nat.exists_eq_add_of_le' hj
  exact (run_succ hs).trans (run (j + k) (Nat.le_add_left k j))

/-! ### Calls of a transport that keeps its contract (R222) -/

theorem Transport.KeepsContract.calls {t : Transport} (h : t.KeepsContract) : t.callsLeft ≠ some 0 :=
  fun hang => nomatch h.symm.trans hang

/-- A write and the read after it: `u` is between the two, `v` behind them. -/
structure Exchange (bs : List Byte) (n : Nat) (r : List Byte) (t u v : Transport) : Prop where
  write : t.write bs = some u
  read : u.read n = some (r, v)

theorem Transport.KeepsContract.exchange {t : Transport} (h : t.KeepsContract) (bs : List Byte) (n : Nat) :
    ∃ r u v, Exchange bs n r t u v := by
  have kept : (t.spend.record (.tx bs)).callsLeft ≠ some 0 := by simp [show t.callsLeft = none from h]
  obtain ⟨r, v, read⟩ := Transport.read_returns n kept
  exact ⟨r, _, v, Transport.write_returns bs h.calls, read⟩

section
variable {bs r : List Byte} {n : Nat} {t u v : Transport} (h : Exchange bs n r t u v)
include h

theorem Exchange.length_le : r.length ≤ n := Transport.read_length_le h.read

theorem Exchange.history : v.history = t.history ++ [.tx bs, .rx n r] := by
  obtain ⟨-, rfl⟩ := Transport.write_some h.write
  obtain ⟨-, -, history, -⟩ := Transport.read_some h.read
  simp [history]

theorem Exchange.sent : v.sent = t.sent ++ [bs] := by
  simp [Transport.sent, h.history]

theorem Exchange.received : v.received = t.received ++ [r] := by
  simp [Transport.received, h.history]

theorem Exchange.keepsContract (contract : t.KeepsContract) : u.KeepsContract ∧ v.KeepsContract := by
  obtain ⟨-, rfl⟩ := Transport.write_some h.write
  have between : (t.spend.record (.tx bs)).callsLeft = none := by simp [show t.callsLeft = none from contract]
  obtain ⟨-, -, -, callsLeft, -⟩ := Transport.read_some h.read
  exact ⟨between, callsLeft.trans (by rw [Transport.spend_callsLeft, between]; rfl)⟩

end

/-! ### The reference loops by class (R129) -/

/-- What follows an inner loop that has spent its iterations. -/
def thenContinue (next : Transport → Option (LoopEnd × Transport)) :
    Option (LoopEnd × Transport) → Option (LoopEnd × Transport)
  | some (.exhausted, t) => next t
  | other => other

section
variable {lenCheck : Bool} {frame r : List Byte} {exp n : Nat} {t u v : Transport} {p : Packet}

theorem innerLoop_good (h : Exchange errorSignal exp r t u v) (hc : rxClass lenCheck r exp = .good p) :
    innerLoop lenCheck exp (n + 1) t = some (.found p, v) := by
  simp only [innerLoop, h.write, h.read, hc]

theorem innerLoop_err (h : Exchange errorSignal exp r t u v) (hc : rxClass lenCheck r exp = .err) :
    innerLoop lenCheck exp (n + 1) t = some (.failed .errorEcho, v) := by
  simp only [innerLoop, h.write, h.read, hc]

theorem innerLoop_fail (h : Exchange errorSignal exp r t u v) (hc : rxClass lenCheck r exp = .fail) :
    innerLoop lenCheck exp (n + 1) t = innerLoop lenCheck exp n v := by
  simp only [innerLoop, h.write, h.read, hc]

theorem outerLoop_good (h : Exchange frame exp r t u v) (hc : rxClass lenCheck r exp = .good p) :
    outerLoop lenCheck frame exp (n + 1) t = some (.found p, v) := by
  simp only [outerLoop, h.write, h.read, hc]

theorem outerLoop_err (h : Exchange frame exp r t u v) (hc : rxClass lenCheck r exp = .err) :
    outerLoop lenCheck frame exp (n + 1) t = outerLoop lenCheck frame exp n v := by
  simp only [outerLoop, h.write, h.read, hc]

theorem outerLoop_fail (h : Exchange frame exp r t u v) (hc : rxClass lenCheck r exp = .fail) :
    outerLoop lenCheck frame exp (n + 1) t =
      thenContinue (outerLoop lenCheck frame exp n) (innerLoop lenCheck exp 2 v) := by
  simp only [outerLoop, h.write, h.read, hc]
  rfl

end

/-- No answer of fewer than three bytes is a frame (R104, R120). -/
theorem rxClass_of_exp_short (lenCheck : Bool) {r : List Byte} {n : Nat} (h : r.length ≤ n) (hn : n < 3) :
    rxClass lenCheck r n = .fail := by
  rcases Nat.lt_or_ge r.length n with short | enough
  · exact rxClass_of_short lenCheck short
  · exact rxClass_of_corrupt enough (decodeFrame_short lenCheck (by omega))

/-! ### A transaction under way -/

section
variable {lenCheck : Bool} {frame : List Byte} {exp : Nat}

/-- A bare TRANSCEIVE of `frame` runs, with reads of `exp` bytes and nothing else going on. -/
structure Running (lenCheck : Bool) (frame : List Byte) (exp : Nat) (s : State) : Prop where
  checked : s.cfg.lenCheck = lenCheck
  command : encodeFrame s.block.cmdId s.block.cmdPayload = frame
  expLen : s.block.expLen.toNat = exp
  waiter : s.host.waiter = .transceive
  pending : s.host.pending = []
  contract : s.transport.KeepsContract

/-- The outer loop has `n` iterations left: SENDING, or ESCALATING when there is none. -/
structure AtOuter (lenCheck : Bool) (frame : List Byte) (exp n : Nat) (s : State) : Prop
    extends Running lenCheck frame exp s where
  count : s.block.oc.toNat + n = 2
  st : s.block.st = if n = 0 then .escalating else .sending
  cause : n = 0 → s.block.cause = .retryExhausted
  short : n = 0 → exp < 3 → s.block.ic = 2

/-- The inner loop has `m` iterations left, and the outer one `n` after it. -/
structure AtInner (lenCheck : Bool) (frame : List Byte) (exp n m : Nat) (s : State) : Prop
    extends Running lenCheck frame exp s where
  outerCount : s.block.oc.toNat + n = 2
  count : s.block.ic.toNat + m = 2
  st : s.block.st = .retrying

/-! ### The ends -/

/-- SUCCESS is entered with the loops' packet, and TRANSCEIVE is told it. -/
theorem Running.concluded_succeed {s : State} (h : Running lenCheck frame exp s) {r : List Byte} {p : Packet}
    (read : r.length ≤ exp) (good : rxClass lenCheck r exp = .good p) : Concluded exp (.found p) (s.succeed p) := by
  have count := rxClass_good_payload read good
  have bound := h.expLen ▸ s.block.expLen.isLt
  obtain ⟨-, block, -, pending⟩ := s.succeed_frame p
  have packet : (s.succeed p).result = some p :=
    (congrArg Block.result block).trans (s.block.succeed_result _ (by omega))
  have host := State.succeed_host packet
  rw [h.waiter, if_neg (by decide)] at host
  refine ⟨congrArg HostSide.waiter host, pending.trans h.pending, fun q hq => ?_, fun c hc => (nomatch hc),
    fun hx => (nomatch hx), fun short => ?_⟩
  · cases hq
    exact ⟨congrArg Block.st block, packet, congrArg HostSide.reply host⟩
  · omega

theorem Running.endsAs_succeed {s : State} (h : Running lenCheck frame exp s) {r : List Byte} {p : Packet}
    (read : r.length ≤ exp) (good : rxClass lenCheck r exp = .good p) (k : Nat) :
    EndsAs exp k (s.succeed p) (some (.found p, s.transport)) :=
  s.succeed_transport p ▸ (h.concluded_succeed read good).endsAs k

/-- ESCALATING goes to FAULTED, and TRANSCEIVE is told the cause. -/
theorem Running.endsAs_escalate {s : State} (h : Running lenCheck frame exp s) (st : s.block.st = .escalating)
    {k : ReaderCause} (cause : s.block.cause.toReader = some k)
    (short : exp < 3 → s.block.oc = 2 ∧ s.block.ic = 2) :
    EndsAs exp 1 s (some (.failed s.block.cause, s.transport)) := by
  have runs : step s = .next s.faulted := by
    rw [step_of_selected h.pending (i := .escalate) (by rw [st]; rfl), exec_escalate st]
  obtain ⟨-, block, transport, pending⟩ := s.faulted_frame
  have host : s.faulted.host = { s.host with waiter := .nobody, reply := .error (.readerFault k) } := by
    rw [State.faulted_eq cause, State.conclude_host]
    exact if_neg (by simp [h.waiter])
  have concluded : Concluded exp (.failed s.block.cause) s.faulted := by
    refine ⟨congrArg HostSide.waiter host, pending.trans h.pending, fun p hp => (nomatch hp), fun c hc => ?_,
      fun hx => (nomatch hx), fun few => ?_⟩
    · cases hc
      exact ⟨congrArg Block.st block, by rw [block, Block.goto_cause], k, cause, congrArg HostSide.reply host⟩
    · rw [block]
      exact short few
  exact transport ▸ (concluded.endsAs 0).step runs

/-! ### One iteration of each loop -/

/-- After a write that made the block `b` and the read that answered `r`, when the answer is to be classed. -/
def State.answered (b : Block) (r : List Byte) (v : Transport) (s : State) : State :=
  { s with transport := v, block := { b with rxBuf := r } }

/-- SEND and RECV are one exchange of the outer loop. -/
theorem Running.endsAs_of_outer {s : State} (h : Running lenCheck frame exp s) (st : s.block.st = .sending)
    {r : List Byte} {u v : Transport} (x : Exchange frame exp r s.transport u v) {k : Nat}
    {res : Option (LoopEnd × Transport)}
    (after : EndsAs exp k ((s.answered s.block.sent r v).afterRecv (rxClass lenCheck r exp)) res) :
    EndsAs exp (k + 2) s res := by
  have sends : step s = .next ((s.setTransport u).setBlock s.block.sent) := by
    rw [step_of_selected h.pending (i := .send) (by rw [st]; rfl), exec_send st h.contract.calls,
      h.command, ← (Transport.write_some x.write).2]
  have reads : step ((s.setTransport u).setBlock s.block.sent) =
      .next ((s.answered s.block.sent r v).afterRecv (rxClass lenCheck r exp)) := by
    rw [step_of_selected (s := (s.setTransport u).setBlock s.block.sent) (i := .recv) h.pending rfl,
      exec_recv (s := (s.setTransport u).setBlock s.block.sent) (r := r) (t := v) rfl
        (by rw [← x.read, ← h.expLen]; rfl), ← h.checked, ← h.expLen]
    rfl
  exact (after.step reads).step sends

/-- ERRSEND and ERRRECV are one exchange of the inner loop. -/
theorem Running.endsAs_of_inner {s : State} (h : Running lenCheck frame exp s) (st : s.block.st = .retrying)
    {r : List Byte} {u v : Transport} (x : Exchange errorSignal exp r s.transport u v) {k : Nat}
    {res : Option (LoopEnd × Transport)}
    (after : EndsAs exp k
      ((s.answered s.block.errSent r v).afterErrRecv (rxClass lenCheck r exp)) res) :
    EndsAs exp (k + 2) s res := by
  have sends : step s = .next ((s.setTransport u).setBlock s.block.errSent) := by
    rw [step_of_selected h.pending (i := .errsend) (by rw [st]; rfl),
      exec_errsend st h.contract.calls, ← (Transport.write_some x.write).2]
  have reads : step ((s.setTransport u).setBlock s.block.errSent) =
      .next ((s.answered s.block.errSent r v).afterErrRecv (rxClass lenCheck r exp)) := by
    rw [step_of_selected (s := (s.setTransport u).setBlock s.block.errSent) (i := .errrecv) h.pending rfl,
      exec_errrecv (s := (s.setTransport u).setBlock s.block.errSent) (r := r) (t := v) rfl
        (by rw [← x.read, ← h.expLen]; rfl), ← h.checked, ← h.expLen]
    rfl
  exact (after.step reads).step sends

/-! ### The loops (R129) -/

/-- A counter is below its bound of two exactly when iterations are left. -/
theorem lt_two_iff {c : BitVec 2} {n : Nat} (h : c.toNat + n = 2) : c < 2 ↔ n ≠ 0 := by
  rw [BitVec.lt_def, show (2 : BitVec 2).toNat = 2 from rfl]
  omega

/-- What does not write the command registers or the host's side leaves the transaction running. -/
theorem Running.continues {s : State} (h : Running lenCheck frame exp s) {b : Block} {v : Transport}
    (command : b.command = s.block.command) (contract : v.KeepsContract) :
    Running lenCheck frame exp { s with transport := v, block := b } := by
  obtain ⟨cmdId, cmdLen, cmdPay, expLen⟩ : b.cmdId = s.block.cmdId ∧ b.cmdLen = s.block.cmdLen ∧
      b.cmdPay = s.block.cmdPay ∧ b.expLen = s.block.expLen := by simpa using command
  refine ⟨h.checked, ?_, ?_, h.waiter, h.pending, contract⟩
  · rw [← h.command]
    simp only [Block.cmdPayload, cmdId, cmdLen, cmdPay]
  · rw [← h.expLen, ← expLen]

/-- Where the outer loop goes on: SENDING while OC says that an iteration is left, else the budget is exhausted. -/
theorem Running.atOuter {n : Nat} {s : State} (h : Running lenCheck frame exp s)
    (count : s.block.oc.toNat + n = 2) (short : n = 0 → exp < 3 → s.block.ic = 2) :
    AtOuter lenCheck frame exp n (s.afterRecv .err) := by
  have left := lt_two_iff count
  by_cases hn : n = 0
  · rw [State.afterRecv_err_of_not_lt (mt left.mp (not_not.mpr hn))]
    exact ⟨h.continues rfl h.contract, count, (if_pos hn).symm, fun _ => rfl, short⟩
  · rw [State.afterRecv_err_of_lt (left.mpr hn)]
    exact ⟨h.continues rfl h.contract, count, (if_neg hn).symm, fun zero => absurd zero hn, short⟩

/-- The outer loop's remaining iterations, from where it goes on. -/
theorem Running.endsAs_again {n k : Nat} {s : State} (h : Running lenCheck frame exp s)
    (count : s.block.oc.toNat + n = 2) (short : n = 0 → exp < 3 → s.block.ic = 2)
    (outer : ∀ s, AtOuter lenCheck frame exp n s → EndsAs exp k s (outerLoop lenCheck frame exp n s.transport)) :
    EndsAs exp k (s.afterRecv .err) (outerLoop lenCheck frame exp n s.transport) :=
  s.afterRecv_transport .err ▸ outer _ (h.atOuter count short)

/-- The inner loop, when what the outer one does after it is known: two steps an iteration. -/
theorem AtInner.endsAs {n k : Nat} (hk : 1 ≤ k)
    (outer : ∀ s, AtOuter lenCheck frame exp n s → EndsAs exp k s (outerLoop lenCheck frame exp n s.transport)) (m : Nat)
    (hm : 0 < m) (s : State) (h : AtInner lenCheck frame exp n m s) :
    EndsAs exp (2 * m + k) s
      (thenContinue (outerLoop lenCheck frame exp n) (innerLoop lenCheck exp m s.transport)) := by
  induction m generalizing s with
  | zero => exact absurd hm (Nat.lt_irrefl 0)
  | succ m ih =>
    obtain ⟨r, u, v, x⟩ := h.contract.exchange errorSignal exp
    have contract := (x.keepsContract h.contract).2
    have count : (s.block.ic + 1).toNat + m = 2 := by have := h.count; bv_omega
    have mid : Running lenCheck frame exp (s.answered s.block.errSent r v) :=
      h.continues rfl contract
    refine EndsAs.mono (h.endsAs_of_inner h.st x (k := 2 * m + k) ?_) (by omega)
    cases hc : rxClass lenCheck r exp with
    | good p =>
      rw [innerLoop_good x hc]
      exact mid.endsAs_succeed x.length_le hc _
    | err =>
      rw [innerLoop_err x hc]
      have long : ¬ exp < 3 := fun few => nomatch hc.symm.trans (rxClass_of_exp_short lenCheck x.length_le few)
      have echo : EndsAs exp 1 ((s.answered s.block.errSent r v).afterErrRecv .err) (some (.failed .errorEcho, v)) :=
        Running.endsAs_escalate (s := (s.answered s.block.errSent r v).afterErrRecv .err) (mid.continues rfl contract)
          rfl (k := .errorEcho) rfl (fun few => absurd few long)
      exact echo.mono (by omega)
    | fail =>
      rw [innerLoop_fail x hc]
      have left := lt_two_iff count
      by_cases hm : m = 0
      · subst hm
        have spent : State.afterErrRecv .fail (s.answered s.block.errSent r v) =
            State.afterRecv .err (s.answered s.block.errSent r v) :=
          if_neg (mt left.mp (not_not.mpr rfl))
        rw [spent]
        exact (mid.endsAs_again h.outerCount (fun _ _ => BitVec.eq_of_toNat_eq count) outer).mono (by omega)
      · have again : State.afterErrRecv .fail (s.answered s.block.errSent r v) =
            (s.answered s.block.errSent r v).setBlock
              (Block.goto .retrying { s.block.errSent with rxBuf := r }) := if_pos (left.mpr hm)
        rw [again]
        exact ih (Nat.pos_of_ne_zero hm) _ ⟨mid.continues rfl contract, h.outerCount, count, rfl⟩

/-- The outer loop: two steps an iteration, four more where the inner loop is entered, and one to FAULTED. -/
theorem AtOuter.endsAs (n : Nat) (s : State) (h : AtOuter lenCheck frame exp n s) :
    EndsAs exp (6 * n + 1) s (outerLoop lenCheck frame exp n s.transport) := by
  induction n generalizing s with
  | zero =>
    have oc : s.block.oc = 2 := BitVec.eq_of_toNat_eq h.count
    have ends := h.endsAs_escalate h.st (k := .retryExhausted) (by rw [h.cause rfl]; rfl)
      (fun few => ⟨oc, h.short rfl few⟩)
    rw [h.cause rfl] at ends
    exact ends
  | succ n ih =>
    have st : s.block.st = .sending := h.st
    obtain ⟨r, u, v, x⟩ := h.contract.exchange frame exp
    have contract := (x.keepsContract h.contract).2
    have count : (s.block.oc + 1).toNat + n = 2 := by have := h.count; bv_omega
    have mid : Running lenCheck frame exp (s.answered s.block.sent r v) :=
      h.continues rfl contract
    refine EndsAs.mono (h.endsAs_of_outer st x (k := 6 * n + 5) ?_) (by omega)
    cases hc : rxClass lenCheck r exp with
    | good p =>
      rw [outerLoop_good x hc]
      exact mid.endsAs_succeed x.length_le hc _
    | err =>
      rw [outerLoop_err x hc]
      have long : ¬ exp < 3 := fun few => nomatch hc.symm.trans (rxClass_of_exp_short lenCheck x.length_le few)
      exact (mid.endsAs_again count (fun _ few => absurd few long) ih).mono (by omega)
    | fail =>
      rw [outerLoop_fail x hc]
      have inner : AtInner lenCheck frame exp n 2 ((s.answered s.block.sent r v).afterRecv .fail) :=
        ⟨mid.continues rfl contract, count, rfl, rfl⟩
      exact (AtInner.endsAs (by omega) ih 2 (by decide) _ inner).mono (by omega)

end

/-! ### TRANSCEIVE (R120, R129) -/

/-- TRANSCEIVE from a state that accepts it starts the outer loop with both iterations left. -/
theorem start_atOuter {s : State} {id : Byte} {pay : List Byte} {exp : BitVec 9} (fits : pay.length ≤ 255)
    (pending : s.host.pending = []) (contract : s.transport.KeepsContract) :
    AtOuter s.cfg.lenCheck (encodeFrame id pay) exp.toNat 2
      { s with block := s.block.start id pay exp, host := { s.host with waiter := .transceive, reply := .started } } := by
  have command : arrayRead (lenByte pay).toNat pay = pay := arrayRead_eq_self (lenByte_toNat fits).symm
  exact ⟨⟨rfl, congrArg (encodeFrame id) command, rfl, rfl, pending, contract⟩, rfl, rfl, fun h => (nomatch h),
    fun h => (nomatch h)⟩

/-- TRANSCEIVE and 13 steps end as the reference algorithm on the same transport does. -/
theorem transceive_refines {s : State} (id : Byte) {pay : List Byte} (exp : BitVec 9) (fits : pay.length ≤ 255)
    (accepts : s.block.accepts = true) (pending : s.host.pending = []) (contract : s.transport.KeepsContract) :
    ∃ s1 out t, exec (.transceive id pay exp) s = .next s1 ∧ Sys2Proof.core.run 13 s1 = .next t ∧
      referenceTransceive s.cfg.lenCheck id pay exp s.transport = some (out, t.transport) ∧
        Concluded exp.toNat out t := by
  obtain ⟨out, t, run, e, concluded⟩ := (start_atOuter (id := id) (exp := exp) fits pending contract).endsAs
  refine ⟨_, out, t, ?_, run 13 (Nat.le_refl 13), e, concluded⟩
  rw [exec_start_or_transceive s fits (.inr rfl), State.startOrBusy_of_accepts _ _ _ _ accepts]

/-- Settles O55: the simulation is `AtOuter.endsAs`, from the start that `start_atOuter` describes. -/
theorem stepsRefineTheReferenceAlgorithm : Obligations.StepsRefineTheReferenceAlgorithm := by
  intro s id pay exp fits accepts pending contract
  obtain ⟨s1, out, t, start, run, reference, concluded⟩ := transceive_refines id exp fits accepts pending contract
  exact ⟨s1, t, out, start, run, reference, concluded.waiter, concluded.found, concluded.failed, concluded.ended⟩

/-! ### What the loops do to the transport (R131) -/

section
variable {lenCheck : Bool} {frame bs r : List Byte} {exp n k j : Nat} {t t' t'' u v : Transport} {out : LoopEnd}

/-- At most `k` writes of the packet or of the signal, each followed by its read; the transport keeps its contract. -/
structure Exchanged (frame : List Byte) (exp k : Nat) (t t' : Transport) : Prop where
  contract : t'.KeepsContract
  pairs : ∃ pairs : List (List Byte × List Byte),
    t'.history = t.history ++ pairs.flatMap (fun p => [.tx p.1, .rx exp p.2]) ∧ pairs.length ≤ k ∧
      ∀ p ∈ pairs, p.1 = frame ∨ p.1 = errorSignal

theorem Exchanged.refl (contract : t.KeepsContract) (k : Nat) : Exchanged frame exp k t t :=
  ⟨contract, [], (List.append_nil _).symm, Nat.zero_le k, fun _ h => nomatch h⟩

theorem Exchanged.trans (h : Exchanged frame exp k t t') (h' : Exchanged frame exp j t' t'') :
    Exchanged frame exp (k + j) t t'' := by
  obtain ⟨-, pairs, history, length, writes⟩ := h
  obtain ⟨contract, pairs', history', length', writes'⟩ := h'
  refine ⟨contract, pairs ++ pairs', ?_, ?_, fun p hp => ?_⟩
  · rw [history', history, List.flatMap_append, List.append_assoc]
  · rw [List.length_append]
    exact Nat.add_le_add length length'
  · exact (List.mem_append.mp hp).elim (writes p) (writes' p)

theorem Exchange.exchanged (x : Exchange bs exp r t u v) (contract : t.KeepsContract)
    (hbs : bs = frame ∨ bs = errorSignal) : Exchanged frame exp 1 t v :=
  ⟨(x.keepsContract contract).2, [(bs, r)], by simp [x.history], Nat.le_refl 1, by simpa using hbs⟩

theorem Exchanged.mono (h : Exchanged frame exp k t t') (hk : k ≤ j) : Exchanged frame exp j t t' := by
  obtain ⟨contract, pairs, history, length, writes⟩ := h
  exact ⟨contract, pairs, history, length.trans hk, writes⟩

/-- Each iteration of the inner loop is one exchange. -/
theorem innerLoop_exchanged (contract : t.KeepsContract) (h : innerLoop lenCheck exp n t = some (out, t')) :
    Exchanged frame exp n t t' := by
  induction n generalizing t with
  | zero =>
    cases h
    exact .refl contract 0
  | succ n ih =>
    obtain ⟨r, u, v, x⟩ := contract.exchange errorSignal exp
    have first : Exchanged frame exp 1 t v := x.exchanged contract (.inr rfl)
    refine Exchanged.mono (first.trans (j := n) ?_) (by omega)
    cases hc : rxClass lenCheck r exp with
    | good p => rw [innerLoop_good x hc] at h; cases h; exact .refl first.contract n
    | err => rw [innerLoop_err x hc] at h; cases h; exact .refl first.contract n
    | fail => rw [innerLoop_fail x hc] at h; exact ih first.contract h

/-- The outer loop begins with a transmission of the packet; then come at most two of the signal, and the iterations that
are left. -/
theorem outerLoop_exchanged_succ (contract : t.KeepsContract)
    (later : ∀ {t}, t.KeepsContract → outerLoop lenCheck frame exp n t = some (out, t') →
      Exchanged frame exp (3 * n) t t')
    (h : outerLoop lenCheck frame exp (n + 1) t = some (out, t')) :
    ∃ r u v, Exchange frame exp r t u v ∧ Exchanged frame exp (3 * n + 2) v t' := by
  obtain ⟨r, u, v, x⟩ := contract.exchange frame exp
  have contract' := (x.keepsContract contract).2
  refine ⟨r, u, v, x, ?_⟩
  cases hc : rxClass lenCheck r exp with
  | good p => rw [outerLoop_good x hc] at h; cases h; exact .refl contract' _
  | err => rw [outerLoop_err x hc] at h; exact (later contract' h).mono (by omega)
  | fail =>
    rw [outerLoop_fail x hc] at h
    rcases hi : innerLoop lenCheck exp 2 v with _ | ⟨ended, w⟩
    · rw [hi] at h; cases h
    · have inner : Exchanged frame exp 2 v w := innerLoop_exchanged contract' hi
      rw [hi] at h
      cases ended with
      | found p => cases h; exact inner.mono (by omega)
      | failed c => cases h; exact inner.mono (by omega)
      | exhausted => exact (inner.trans (later inner.contract h)).mono (by omega)

theorem outerLoop_exchanged (contract : t.KeepsContract)
    (h : outerLoop lenCheck frame exp n t = some (out, t')) : Exchanged frame exp (3 * n) t t' := by
  induction n generalizing t with
  | zero =>
    cases h
    exact .refl contract 0
  | succ n ih =>
    obtain ⟨r, u, v, x, rest⟩ := outerLoop_exchanged_succ contract ih h
    exact ((x.exchanged contract (.inl rfl)).trans rest).mono (by omega)

/-- With answers too short for a frame the inner loop spends all its iterations. -/
theorem innerLoop_of_short (short : exp < 3) (contract : t.KeepsContract) (n : Nat) :
    ∃ t', innerLoop lenCheck exp n t = some (.exhausted, t') ∧ t'.KeepsContract ∧
      t'.sent = t.sent ++ List.replicate n errorSignal ∧ t'.received.length = t.received.length + n := by
  induction n generalizing t with
  | zero => exact ⟨t, rfl, contract, (List.append_nil _).symm, rfl⟩
  | succ n ih =>
    obtain ⟨r, u, v, x⟩ := contract.exchange errorSignal exp
    obtain ⟨t', e, contract', sent, received⟩ := ih (x.keepsContract contract).2
    refine ⟨t', ?_, contract', ?_, ?_⟩
    · rw [innerLoop_fail x (rxClass_of_exp_short lenCheck x.length_le short), e]
    · rw [sent, x.sent, List.append_assoc]
      rfl
    · rw [received, x.received, List.length_append, List.length_singleton]
      omega

/-- And so does the outer loop: the packet and two signals each time. -/
theorem outerLoop_of_short (short : exp < 3) (contract : t.KeepsContract) (n : Nat) :
    ∃ t', outerLoop lenCheck frame exp n t = some (.failed .retryExhausted, t') ∧
      t'.sent = t.sent ++ (List.replicate n [frame, errorSignal, errorSignal]).flatten ∧
      t'.received.length = t.received.length + 3 * n := by
  induction n generalizing t with
  | zero => exact ⟨t, rfl, (List.append_nil _).symm, rfl⟩
  | succ n ih =>
    obtain ⟨r, u, v, x⟩ := contract.exchange frame exp
    obtain ⟨w, inner, contract', innerSent, innerReceived⟩ :=
      innerLoop_of_short (lenCheck := lenCheck) short (x.keepsContract contract).2 2
    obtain ⟨t', outer, sent, received⟩ := ih contract'
    refine ⟨t', ?_, ?_, ?_⟩
    · rw [outerLoop_fail x (rxClass_of_exp_short lenCheck x.length_le short), inner]
      exact outer
    · rw [sent, innerSent, x.sent, List.append_assoc, List.append_assoc]
      rfl
    · rw [received, innerReceived, x.received, List.length_append, List.length_singleton]
      omega

end

/-- Settles O54: the machine ends as the reference loops do, and those make one exchange of the packet and at most five
more. -/
theorem transceiveEndsWithinItsBounds : Obligations.TransceiveEndsWithinItsBounds := by
  intro s id pay exp fits accepts pending contract
  obtain ⟨s1, out, t, start, run, reference, concluded⟩ := transceive_refines id exp fits accepts pending contract
  obtain ⟨r, u, v, x, -, pairs, history, length, writes⟩ :=
    outerLoop_exchanged_succ (n := 1) contract outerLoop_exchanged reference
  refine ⟨s1, t, start, run, decide_eq_true concluded.terminal, r, pairs, ?_, length, fun p hp => ?_⟩
  · rw [history, x.history, List.append_assoc]
  · exact errorSignal_eq ▸ writes p hp

/-- Settles O56: the loops spend both budgets (`outerLoop_of_short`), and `Concluded.short` counts them. -/
theorem tooShortExpectationExhaustsTheBudget : Obligations.TooShortExpectationExhaustsTheBudget := by
  intro s id pay exp fits short accepts pending contract
  obtain ⟨s1, out, t, start, run, reference, concluded⟩ := transceive_refines id exp fits accepts pending contract
  obtain ⟨t', outer, sent, received⟩ := outerLoop_of_short (lenCheck := s.cfg.lenCheck) (frame := encodeFrame id pay)
    short contract 2
  obtain ⟨rfl, rfl⟩ := Prod.mk.inj (Option.some.inj (outer.symm.trans reference))
  obtain ⟨st, cause, -⟩ := concluded.failed _ rfl
  obtain ⟨oc, ic⟩ := concluded.short short
  refine ⟨s1, t, start, run, st, cause, oc, ic, ?_, received⟩
  rw [sent, errorSignal_eq]
  rfl

end Sys2Proof.Machine
end
